-- ==== Sys2Proof/Word.lean ====
section
/-! DEFINITION. The byte and the line level: the two plainest types of the LIN Frame Engine. -/

namespace Sys2Proof

/-- A byte: "an unsigned 8-bit value, 0 to 255", `b[0]` least significant (00_scope.md R13). -/
abbrev Byte := BitVec 8

/-- The level of a digital output line (00_scope.md R12): `low` is the dominant level. -/
inductive Level where
  | low
  | high
  deriving DecidableEq, Repr, Inhabited

end Sys2Proof
end

