-- ==== Sys2Proof/Config.lean ====
section
/-! DEFINITION. What one engine fixes at its creation, and the free values the spec leaves to the collaborators.
Every `opaque` constant has no body that Lean can see: a claim that holds of it holds of every value. -/

namespace Sys2Proof.Config

/-- `SYNC_BYTE = 0x55` (00_scope.md R8). -/
def syncByte : Byte := 0x55#8

/-- `BREAK_BITS = 13` (00_scope.md R8). -/
def breakBits : Nat := 13

/-- `WAKE_DELAY_US = 20` (00_scope.md R8). -/
def wakeDelayUs : Nat := 20

/-- `LEN_MAX = 255` (00_scope.md R8). -/
def lenMax : Nat := 255

/-- `RX_OVERHEAD = 3`: synch byte, identifier and checksum (00_scope.md R8). -/
def rxOverhead : Nat := 3

/-! ## Creation arguments of the engine that `State.reset` stands for -/

/-- The baud rate given at creation, less one; see `baud`. -/
opaque baudLessOne : Nat

/-- `BAUD`, "a positive integer", given at creation (00_scope.md R5). DESIGN CHOICE (log entry 1), safe: it is left free. -/
def baud : Nat := baudLessOne + 1

/-- `OWN_ID`, absent or a byte, given at creation (00_scope.md R7). DESIGN CHOICE (log entry 1), safe: it is left free. -/
opaque ownId : Option Byte

/-- `WAKE_ACTIVE`, the level that means "wake": an open parameter (00_scope.md R9, R10).
DESIGN CHOICE (log entry 1), safe: it is left free. -/
opaque wakeActive : Level

/-- `WAKE_CTRL`, "a Boolean, default false" (00_scope.md R9): the default the spec gives. -/
def wakeCtrl : Bool := false

/-- `RX_TIMEOUT`, how long the transport's blocking read waits; `none` when it is infinite (00_scope.md R10, decision D17).
DESIGN CHOICE (log entry 1), safe: it is left free. -/
opaque rxTimeout : Option Nat

/-- `TICKS_PER_US`: "needed only by a clocked implementation; the model has no time" (00_scope.md R10). Nothing reads it. -/
opaque ticksPerUs : Nat

/-- The pin number of the TX line, a "constructor-injected collaborator handle" (00_scope.md R10). Nothing reads it. -/
opaque txPin : Nat

/-- The pin number of the wake line (00_scope.md R10). Nothing reads it. -/
opaque wakePin : Nat

/-! ## Free values: answers of the transport that no rule constrains -/

/-- The Boolean that the `n`-th `Wr` event answers, where the bench has not scripted one: "a model takes each `ok` as a
draw" (41_encoder.md R95). DESIGN CHOICE (log entry 2), safe. -/
opaque freeWriteAck : Nat → Bool

/-- The pending bytes that the `n`-th `Cfg` or `Close` event leaves in `rx`, where the bench has not scripted them: "a
model must let the environment choose" (10_state.md R32). DESIGN CHOICE (log entry 3), safe. -/
opaque freePending : Nat → List Byte

end Sys2Proof.Config
end

