-- ==== Sys2Proof/Syntax.lean ====
section
/-! DEFINITION. The seven operations (30_encoding.md R60, R70), their operands, and the command a caller puts on the
command port. -/

namespace Sys2Proof

/-- The seven operations by name (30_encoding.md R70). -/
inductive Op where
  | sendFrame
  | sendHeader
  | sendResponse
  | sendRaw
  | receiveFrame
  | receiveRaw
  | prepareReceive
  deriving DecidableEq, Repr

/-- An operation with the operands it uses (30_encoding.md R70, R74). For a send, `len` is the length of `data`. For a
receive, `len` is `expectedDataSize`; it is a `Nat` so that an operand outside its domain can be written and is turned away
(60_exceptions.md R136 (e)). -/
inductive Instr where
  | sendFrame (id : Byte) (data : List Byte)
  | sendHeader (id : Byte)
  | sendResponse (data : List Byte)
  | sendRaw (data : List Byte)
  | receiveFrame (len : Nat)
  | receiveRaw (len : Nat)
  | prepareReceive
  deriving DecidableEq, Repr

/-- Which operation an instruction is. -/
def Instr.op : Instr → Op
  | .sendFrame _ _ => .sendFrame
  | .sendHeader _ => .sendHeader
  | .sendResponse _ => .sendResponse
  | .sendRaw _ => .sendRaw
  | .receiveFrame _ => .receiveFrame
  | .receiveRaw _ => .receiveRaw
  | .prepareReceive => .prepareReceive

/-- A command as it stands on the command port: the 19-bit header word `cmd[18:0]` and the data bytes that follow it "in
index order and are not part of the word" (30_encoding.md R70). -/
structure Command where
  header : BitVec 19
  data : List Byte
  deriving DecidableEq, Repr

end Sys2Proof
end

