-- ==== Sys2Proof/WellFormed.lean ====
section
/-! DEFINITION. When an instruction's operands lie in their domains (60_exceptions.md R136 (e), decision D7). -/

namespace Sys2Proof

/-- The length operand of an instruction: the number of data bytes to send, or `expectedDataSize`; an operation that takes
none counts as 0 (10_state.md R25). -/
def Instr.len : Instr → Nat
  | .sendFrame _ data => data.length
  | .sendHeader _ => 0
  | .sendResponse data => data.length
  | .sendRaw data => data.length
  | .receiveFrame len => len
  | .receiveRaw len => len
  | .prepareReceive => 0

/-- Every length operand is 0 to 255; every identifier byte is legal (30_encoding.md R72). -/
def Instr.wf (i : Instr) : Bool := decide (i.len ≤ Config.lenMax)

/-- `Instr.wf` as a proposition. -/
abbrev Instr.WellFormed (i : Instr) : Prop := i.wf = true

end Sys2Proof
end

