-- ==== Sys2Proof/Decode.lean ====
section
/-! DEFINITION. From a command to an instruction (total, rejecting by name), and back (30_encoding.md R70, R72). -/

namespace Sys2Proof

/-- Why a command selects no instruction. -/
inductive DecodeError where
  /-- Command code `111` (30_encoding.md R72 (a)). -/
  | reservedCommand
  /-- "`data` whose length is not `len`" (60_exceptions.md R136 (e)). -/
  | dataLengthMismatch
  deriving DecidableEq, Repr

/-- What a command decodes to. -/
inductive Decoded where
  | instr (i : Instr)
  | rejected (e : DecodeError)
  deriving DecidableEq, Repr

/-- The command code of each operation (30_encoding.md R70). -/
def Op.code : Op → BitVec 3
  | .sendFrame => 0b000#3
  | .sendHeader => 0b001#3
  | .sendResponse => 0b010#3
  | .sendRaw => 0b011#3
  | .receiveFrame => 0b100#3
  | .receiveRaw => 0b101#3
  | .prepareReceive => 0b110#3

/-- The operation a command code selects; `111` selects none (30_encoding.md R70, R72). -/
def Op.ofCode (c : BitVec 3) : Option Op :=
  match c.toNat with
  | 0 => some .sendFrame
  | 1 => some .sendHeader
  | 2 => some .sendResponse
  | 3 => some .sendRaw
  | 4 => some .receiveFrame
  | 5 => some .receiveRaw
  | 6 => some .prepareReceive
  | _ => none

/-- `op = cmd[18:16]`. -/
def Command.opField (c : Command) : BitVec 3 := c.header.extractLsb' 16 3

/-- `id = cmd[15:8]`. -/
def Command.idField (c : Command) : Byte := c.header.extractLsb' 8 8

/-- `len = cmd[7:0]`. -/
def Command.lenField (c : Command) : Byte := c.header.extractLsb' 0 8

/-- A send that takes data has exactly `len` bytes of it (60_exceptions.md R136 (e)). -/
def Command.withData (c : Command) (make : List Byte → Instr) : Decoded :=
  if c.data.length = c.lenField.toNat then .instr (make c.data) else .rejected .dataLengthMismatch

/-- The instruction a command stands for. Fields and data bytes that the operation does not use are ignored (10_state.md
R25, 30_encoding.md R70). -/
def decode (c : Command) : Decoded :=
  match Op.ofCode c.opField with
  | some .sendFrame => c.withData (.sendFrame c.idField)
  | some .sendHeader => .instr (.sendHeader c.idField)
  | some .sendResponse => c.withData .sendResponse
  | some .sendRaw => c.withData .sendRaw
  | some .receiveFrame => .instr (.receiveFrame c.lenField.toNat)
  | some .receiveRaw => .instr (.receiveRaw c.lenField.toNat)
  | some .prepareReceive => .instr .prepareReceive
  | none => .rejected .reservedCommand

/-- The header word `op ++ id ++ len` (30_encoding.md R70). -/
def headerWord (op : Op) (id : Byte) (len : Nat) : BitVec 19 :=
  op.code ++ id ++ BitVec.ofNat 8 len

/-- The command of an instruction. A field it does not use is written as zero (DESIGN CHOICE, log entry 4, safe: any value
decodes alike). -/
def encode : Instr → Command
  | .sendFrame id data => ⟨headerWord .sendFrame id data.length, data⟩
  | .sendHeader id => ⟨headerWord .sendHeader id 0, []⟩
  | .sendResponse data => ⟨headerWord .sendResponse 0#8 data.length, data⟩
  | .sendRaw data => ⟨headerWord .sendRaw 0#8 data.length, data⟩
  | .receiveFrame len => ⟨headerWord .receiveFrame 0#8 len, []⟩
  | .receiveRaw len => ⟨headerWord .receiveRaw 0#8 len, []⟩
  | .prepareReceive => ⟨headerWord .prepareReceive 0#8 0, []⟩

/-- The command whose header is a word of spec/opcode_table.json and whose data bytes, which the table gives no bits, are
all zero: `len` of them. The command port has 19 wires, so no bit above 18 reaches it (log entry 5). -/
def Command.ofTableWord (nbits w : Nat) : Command :=
  let header := BitVec.ofNat 19 (w % 2 ^ nbits)
  ⟨header, List.replicate (header.extractLsb' 0 8).toNat 0#8⟩

/-- The instruction the decoder reads from a word numbered as spec/opcode_table.json numbers it. -/
def decodeTableWord (nbits w : Nat) : Option Instr :=
  match decode (Command.ofTableWord nbits w) with
  | .instr i => some i
  | .rejected _ => none

end Sys2Proof
end

