-- ==== Sys2Proof/Machine/State.lean ====
section
/-! DEFINITION. The state of the engine and of its two collaborators as plain data (10_state.md), the reasons a step can stop,
and the state just after creation (10_state.md R36). -/

namespace Sys2Proof.Machine

/-! ## Events (00_scope.md R12) -/

/-- The two output lines the engine drives (60_exceptions.md R133). -/
inductive Pin where
  | tx
  | wake
  deriving DecidableEq, Repr

/-- What a blocking read answers (00_scope.md R12). -/
inductive RdAnswer where
  | bytes (b : List Byte)
  | timeout
  deriving DecidableEq, Repr

/-- One call of a collaborator operation, with its arguments and its answer (00_scope.md R12, 10_state.md R34). -/
inductive Event where
  | cfg (baud : Nat)
  | wr (v : Byte) (ok : Bool)
  | avail (pending : Bool)
  | rd (k : Nat) (answer : RdAnswer)
  | close
  | line (p : Pin) (l : Level)
  | delay (us : Nat)
  deriving DecidableEq, Repr

/-! ## Registers -/

/-- The sequencer's phases (10_state.md R28). -/
inductive Phase where
  | idle
  | cks
  | wake
  | brk
  | cfg
  | txSync
  | txId
  | txData
  | txCks
  | close
  | sleep
  | rxPoll
  | rxRead
  | rxChkId
  | rxChkCks
  | done
  deriving DecidableEq, Repr

/-- The result of an operation (10_state.md R31). -/
inductive Status where
  | ok
  | noData
  | identifierMismatch
  | checksumMismatch
  | transportTimeout
  | writeFailure
  deriving DecidableEq, Repr

/-- The transport is closed, or open at the baud rate of the last `Cfg` (10_state.md R32). -/
inductive Transport where
  | closed
  | openAt (baud : Nat)
  deriving DecidableEq, Repr

/-- The engine's configuration (10_state.md R21 to R24). `PERIOD` is hardwired to a function of `BAUD` (R22) and is computed
from it by `Cfg.period`; `OWN_ID`, the pair `(HAS_ID, ID)` of R23, is `none` when `HAS_ID` is false. -/
structure Cfg where
  baud : Nat
  ownId : Option Byte
  deriving DecidableEq, Repr

/-- The open parameters of one engine and its collaborators (00_scope.md R9, R10): `WAKE_CTRL`, `WAKE_ACTIVE` and
`RX_TIMEOUT` (`none`: infinite). -/
structure Params where
  wakeCtrl : Bool
  wakeActive : Level
  rxTimeout : Option Nat
  deriving DecidableEq, Repr

/-- The bytes of the receive frame buffer that are not zero, by rising offset (20_memory.md R40 (3), R46). An offset that is
not listed reads as zero (DESIGN CHOICE, log entry 7). -/
structure Memory where
  cells : List Host.Cell
  deriving DecidableEq, Repr

/-- The working registers of the operation in progress (10_state.md R25, R27 to R30): the operand latches `op`, `id`, `len`
and `data`, the checksum accumulator `acc`, the byte index `idx`, the receive frame buffer `rxbuf` and the break timer
`brk_cnt`. -/
structure Work where
  op : Op
  id : Byte
  len : BitVec 8
  data : List Byte
  acc : Byte
  idx : BitVec 9
  rxbuf : Memory
  brkCnt : Nat
  deriving DecidableEq, Repr

/-! ## The model's own fields: the outside world -/

/-- One thing the outside world does, between two steps of the engine: the caller invokes an operation (20_memory.md R50),
the environment changes the pending bytes (20_memory.md R51), the transport's own timeout expires having consumed `j` bytes
(20_memory.md R53), the engine is reset or destroyed (70_reset_and_hazards.md R140, R141). -/
inductive Input where
  | call (c : Command)
  | arrive (bytes : List Byte)
  | rxBecomes (bytes : List Byte)
  | timeout (j : Nat)
  | reset
  | destroy
  deriving DecidableEq, Repr

/-- The transport's answers that no rule constrains. `acks` are the answers of the coming `Wr` events and `pendings` the
contents of `rx` after the coming `Cfg` and `Close` events, as far as a bench has scripted them; after the script, answer
number `n` is the free value of Config applied to the counter (log entries 2 and 3). `reads` are the contents of `rx` that the
environment gives at the `Rd` events of coming receives, each after its `Avail`; after the script the environment does nothing
there (20_memory.md R51; log entry 22). -/
structure Draws where
  acks : List Bool
  ackCount : Nat
  pendings : List (List Byte)
  pendingCount : Nat
  reads : List (List Byte)
  deriving DecidableEq, Repr

/-! ## The whole state (10_state.md R20) -/

structure State where
  /-- The fixed configuration (R21 to R24). -/
  cfg : Cfg
  /-- The open parameters (00_scope.md R9, R10). -/
  params : Params
  /-- The working registers (R25, R27 to R30). -/
  work : Work
  /-- The sequencer (R28). -/
  phase : Phase
  /-- The result latch `status` (R26, R31). -/
  status : Status
  /-- The result latch `rdata`; `none` when it carries no value (R26, 42_decoder.md R110). -/
  rdata : Option (List Byte)
  /-- The transport (R32). -/
  tp : Transport
  /-- The pending received bytes, oldest first (R32). -/
  rx : List Byte
  /-- The bytes written so far (R32). -/
  tx : List Byte
  /-- The level of the transmit line as driven through GPIO (R33). -/
  line : Level
  /-- The level of the transceiver's wake/sleep line (R33). -/
  wake : Level
  /-- Every event since creation, oldest first (R34). -/
  hist : List Event
  /-- The model's own: what the outside world does next, first thing first (log entry 6). -/
  inputs : List Input
  /-- The model's own: the transport's coming answers (log entries 2, 3 and 22). -/
  draws : Draws
  deriving DecidableEq, Repr

/-! ## Reasons to stop -/

/-- The spec has no fault: nothing traps (60_exceptions.md, opening). -/
inductive Fault where
  /-- Raised by `step` in a state whose `phase` lies inside an operation that this model runs as one step, or that holds a
  read for an operation that reads nothing. No run reaches such a state (the invariant `Safety.Inv`; log entry 20). Safe. -/
  | phaseInsideOperation
  deriving DecidableEq, Repr

/-- What the spec itself refuses (60_exceptions.md R136, 70_reset_and_hazards.md R140). -/
inductive Refusal where
  /-- Raised by an arm of `exec` that has no meaning yet. Safe. -/
  | notModelled (mnemonic : String)
  /-- R136 (a): raised by receiveFrame and receiveRaw started while `tp` is `Closed`. Safe. -/
  | transportNotListening
  /-- R136 (b): raised by receiveFrame at the identifier check of an engine without an identifier. Safe. -/
  | noIdentifierConfigured
  /-- R136 (c): raised by every operation invoked while one is in progress. Safe. -/
  | reentrantCall
  /-- R136 (d): raised by `step` on a command with the code `111`. Safe. -/
  | reservedCommand
  /-- R136 (e): raised by an operation whose length operand is above 255, and by `step` on a command whose data are not `len`
  bytes. Safe. -/
  | operandOutOfDomain
  /-- 70_reset_and_hazards.md R140: raised by `step` on a reset during an operation. Safe. -/
  | operationCutShort
  deriving DecidableEq, Repr

/-! ## Creation (10_state.md R36) -/

/-- The working registers just after creation: "unspecified; no rule reads them" (R36). DESIGN CHOICE (log entry 8), unsafe:
all zero. -/
def Work.reset : Work :=
  { op := .sendFrame, id := 0#8, len := 0#8, data := [], acc := 0#8, idx := 0#9, rxbuf := ⟨[]⟩, brkCnt := 0 }

/-- The engine just after its creation with the given configuration and parameters: "creation emits no event" (R36,
decision D21). `status` and `wake`, which R36 leaves unspecified, are zero (DESIGN CHOICE, log entry 8, unsafe); `rx` is
empty, which R36 calls normal (log entry 9); nothing is scripted for the outside world. -/
def State.create (cfg : Cfg) (params : Params) : State :=
  { cfg := cfg, params := params, work := Work.reset, phase := .idle, status := .ok, rdata := none, tp := .closed, rx := [],
    tx := [], line := .high, wake := .low, hist := [], inputs := [],
    draws := { acks := [], ackCount := 0, pendings := [], pendingCount := 0, reads := [] } }

/-- The machine right after reset: creation with the free creation arguments of Config. -/
def State.reset : State :=
  State.create { baud := Config.baud, ownId := Config.ownId }
    { wakeCtrl := Config.wakeCtrl, wakeActive := Config.wakeActive, rxTimeout := Config.rxTimeout }

end Sys2Proof.Machine
end

