-- ==== Sys2Proof/Machine/Flags.lean ====
section
/-! DEFINITION. The checksum accumulator (40_checksum.md) and the status register's values (10_state.md R31). The block has no
condition codes. -/

namespace Sys2Proof.Machine

/-! ## The accumulator (40_checksum.md R81 to R84) -/

/-- `CLR`: `acc <- 0x00` (R81). -/
def accClr (s : State) : State :=
  { s with work := { s.work with acc := 0#8 } }

/-- `ADD(b)`: `acc <- (acc + b) mod 256`, the carry dropped (R82). -/
def accAdd (b : Byte) (s : State) : State :=
  { s with work := { s.work with acc := s.work.acc + b } }

/-- `FIN`: `255 - ((acc + 1) mod 256)` (R83). -/
def accFin (acc : Byte) : Byte := 255#8 - (acc + 1#8)

/-- `VERIFY(r)`: `r = FIN` (R84). -/
def accVerify (acc r : Byte) : Bool := r == accFin acc

/-- `ADD(b)` for every byte in index order (R82). -/
def accAddAll : List Byte → State → State
  | [], s => s
  | b :: bs, s => accAddAll bs (accAdd b s)

/-- The plain modular sum of a sequence of bytes (R82). -/
def byteSum : List Byte → Byte
  | [] => 0#8
  | b :: bs => b + byteSum bs

/-- `cks(data)`, over the data bytes only (R80, R86). -/
def cks (data : List Byte) : Byte := accFin (byteSum data)

/-! ## The status (10_state.md R31, 30_encoding.md R71) -/

/-- The status code `st[2:0]` (30_encoding.md R71). -/
def Status.code : Status → BitVec 3
  | .ok => 0b000#3
  | .noData => 0b001#3
  | .identifierMismatch => 0b010#3
  | .checksumMismatch => 0b011#3
  | .transportTimeout => 0b100#3
  | .writeFailure => 0b101#3

/-- The status of a send operation: `Ok` if every `Wr` it issued returned true (41_encoder.md R95). -/
def statusOfWrites (allOk : Bool) : Status := if allOk then .ok else .writeFailure

end Sys2Proof.Machine
end

