-- ==== Sys2Proof/Machine/Ops.lean ====
section
/-! DEFINITION. The shared operations: the receive frame buffer, the events and what each does to the collaborators, the
synch break, the wake/sleep wrap, how an operation ends (this block's counterpart of taking an exception and of returning
from one), and what the outside world does between steps. -/

namespace Sys2Proof.Machine

/-! ## The receive frame buffer: `MemRead` and `MemWrite` (00_scope.md R14, 20_memory.md R40) -/

/-- The number of offsets of the buffer, 0 to 257 (20_memory.md R40). -/
def bufferSize : Nat := 258

/-- The byte listed at an offset, zero where none is listed. -/
def lookupCell : List Host.Cell → Nat → Byte
  | [], _ => 0#8
  | (a, v) :: rest, x => if a = x then v else lookupCell rest x

/-- One byte listed at an offset in place of what was there; a zero is not listed. -/
def storeCell : List Host.Cell → Nat → Byte → List Host.Cell
  | [], x, v => if v = 0#8 then [] else [(x, v)]
  | (a, w) :: rest, x, v =>
    if x < a then (if v = 0#8 then (a, w) :: rest else (x, v) :: (a, w) :: rest)
    else if x = a then (if v = 0#8 then rest else (x, v) :: rest)
    else (a, w) :: storeCell rest x v

/-- The canonical form from offset `lo` on: offsets strictly rising, inside the buffer, no zero listed. -/
def cellsWf : Nat → List Host.Cell → Bool
  | _, [] => true
  | lo, (a, v) :: rest => decide (lo ≤ a) && decide (a < bufferSize) && decide (v ≠ 0#8) && cellsWf (a + 1) rest

/-- The buffer is in its canonical form. -/
def Memory.wf (m : Memory) : Bool := cellsWf 0 m.cells

/-- One byte of the buffer. -/
def Memory.read (m : Memory) (x : Nat) : Byte := lookupCell m.cells x

/-- One byte written to the buffer. -/
def Memory.write (m : Memory) (x : Nat) (v : Byte) : Memory := ⟨storeCell m.cells x v⟩

/-- `MemRead(a, k)`: the slice `rxbuf[a, a+k)`. -/
def memRead (m : Memory) (a : Nat) : Nat → List Byte
  | 0 => []
  | k + 1 => m.read a :: memRead m (a + 1) k

/-- `MemWrite(a, k, v)` with `k` the number of bytes of `v`. -/
def memWrite (m : Memory) (a : Nat) : List Byte → Memory
  | [] => m
  | v :: vs => memWrite (m.write a v) (a + 1) vs

/-! ## The configuration (43_synch_break.md R114, R115) -/

/-- `PERIOD = floor((4 * BAUD + 217) / 434)`, the nearest integer to `BAUD / 108.5` (R114). -/
def Cfg.period (c : Cfg) : Nat := (4 * c.baud + 217) / 434

/-- `holdDuration(bits) = bits * PERIOD` microseconds, exact (R115). -/
def Cfg.hold (c : Cfg) (bits : Nat) : Nat := bits * c.period

/-! ## The transport's free answers (10_state.md R32, 41_encoder.md R95) -/

/-- The answer of the next `Wr`. -/
def Draws.nextAck (d : Draws) : Bool :=
  match d.acks with
  | [] => Config.freeWriteAck d.ackCount
  | a :: _ => a

/-- The answers left after `n` more `Wr` events. -/
def Draws.popAcks (n : Nat) (d : Draws) : Draws :=
  { d with acks := d.acks.drop n, ackCount := d.ackCount + n }

/-- The answers of the next `n` `Wr` events. -/
def Draws.ackList (d : Draws) : Nat → List Bool
  | 0 => []
  | n + 1 => d.nextAck :: (d.popAcks 1).ackList n

/-- What the next `Cfg` or `Close` leaves pending in `rx`. -/
def Draws.nextPending (d : Draws) : List Byte :=
  match d.pendings with
  | [] => Config.freePending d.pendingCount
  | p :: _ => p

/-- The answers left after one more `Cfg` or `Close` event. -/
def Draws.popPending (d : Draws) : Draws :=
  { d with pendings := d.pendings.drop 1, pendingCount := d.pendingCount + 1 }

/-- What is pending in `rx` at the next `Rd`, where `rx` was pending at the `Avail` before it (20_memory.md R51). -/
def Draws.rxAtRead (d : Draws) (rx : List Byte) : List Byte :=
  match d.reads with
  | [] => rx
  | r :: _ => r

/-- The answers left after one more `Avail` that is followed by an `Rd`. -/
def Draws.popRead (d : Draws) : Draws := { d with reads := d.reads.drop 1 }

/-! ## The sequencer and the operand latches (10_state.md R25, R28) -/

/-- `phase <- p`. -/
def enter (p : Phase) (s : State) : State := { s with phase := p }

/-- `idx <- i`, 9 bits. -/
def setIdx (i : Nat) (s : State) : State :=
  { s with work := { s.work with idx := BitVec.ofNat 9 i } }

/-! ## Events: `emit` (00_scope.md R12, R14) with the effect of 10_state.md R32 and R33 -/

/-- `Cfg(BAUD)`: `tp <- Open(BAUD)` from either value; what stays pending is the environment's choice. -/
def emitCfg (s : State) : State :=
  { s with
    tp := .openAt s.cfg.baud
    rx := s.draws.nextPending
    hist := s.hist ++ [.cfg s.cfg.baud]
    draws := s.draws.popPending }

/-- `Close()`: `tp <- Closed` from either value; what stays pending is the environment's choice. -/
def emitClose (s : State) : State :=
  { s with
    tp := .closed
    rx := s.draws.nextPending
    hist := s.hist ++ [.close]
    draws := s.draws.popPending }

/-- `Wr(v) -> ok`: `v` is appended to `tx`, whatever the transport answers (60_exceptions.md R125; log entry 10). -/
def emitWr (v : Byte) (s : State) : State × Bool :=
  ({ s with
      tx := s.tx ++ [v]
      hist := s.hist ++ [.wr v s.draws.nextAck]
      draws := s.draws.popAcks 1 },
    s.draws.nextAck)

/-- `Avail()`: it answers whether a byte is pending and changes nothing. -/
def emitAvail (s : State) : State :=
  { s with hist := s.hist ++ [.avail (!s.rx.isEmpty)] }

/-- Between the `Avail` and the `Rd` of a receive the environment makes of `rx` what it will (20_memory.md R51, decision D29; log
entry 22). No event. -/
def awaitRead (s : State) : State :=
  { s with
    rx := s.draws.rxAtRead s.rx
    draws := s.draws.popRead }

/-- `Rd(k) -> Bytes(b)`: the first `k` bytes of `rx` are removed and returned. -/
def emitRdBytes (k : Nat) (s : State) : State :=
  { s with
    rx := s.rx.drop k
    hist := s.hist ++ [.rd k (.bytes (s.rx.take k))] }

/-- `Rd(k) -> Timeout`: a prefix of `j` bytes of `rx`, at most all of it, is removed (20_memory.md R53). -/
def emitRdTimeout (k j : Nat) (s : State) : State :=
  { s with
    rx := s.rx.drop j
    hist := s.hist ++ [.rd k .timeout] }

/-- `Line(p, l)`: the line `p` is driven to `l`. -/
def emitLine (p : Pin) (l : Level) (s : State) : State :=
  { s with
    line := if p = .tx then l else s.line
    wake := if p = .wake then l else s.wake
    hist := s.hist ++ [.line p l] }

/-- `Delay(u)`: it "records `u` and does nothing else" (60_exceptions.md R131). -/
def emitDelay (us : Nat) (s : State) : State :=
  { s with hist := s.hist ++ [.delay us] }

/-- `d[i] <- Wr(data[i])` for `i` from a first index on, with `idx` the index of the byte written; and whether all `d[i]`
are true. A failed write is not repeated and stops nothing (41_encoder.md R95). -/
def emitData : Nat → List Byte → State → State × Bool
  | _, [], s => (s, true)
  | i, b :: bs, s =>
    let r := emitWr b (setIdx i s)
    let q := emitData (i + 1) bs r.1
    (q.1, r.2 && q.2)

/-! ## The synch break (43_synch_break.md R113) and the wake/sleep wrap (41_encoder.md R96) -/

/-- `break(bits)`: three events, also when the delay is zero. -/
def synchBreak (bits : Nat) (s : State) : State :=
  let s := { s with work := { s.work with brkCnt := s.cfg.hold bits } }
  emitLine .tx .high (emitDelay s.work.brkCnt (emitLine .tx .low s))

/-- The other level of a line. -/
def opposite : Level → Level
  | .low => .high
  | .high => .low

/-- `wake_before()`, nothing when `WAKE_CTRL` is false. -/
def wakeBefore (s : State) : State :=
  if s.params.wakeCtrl then emitDelay Config.wakeDelayUs (emitLine .wake s.params.wakeActive (enter .wake s)) else s

/-- `sleep_after()`, nothing when `WAKE_CTRL` is false. -/
def sleepAfter (s : State) : State :=
  if s.params.wakeCtrl then emitLine .wake (opposite s.params.wakeActive) (enter .sleep s) else s

/-! ## The end of an operation: `return Ok(v)` and `raise <Status>` (00_scope.md R14, 60_exceptions.md R128) -/

/-- `DONE` writes the result latches and returns to `IDLE` in the same step (10_state.md R38). -/
def finish (status : Status) (rdata : Option (List Byte)) (s : State) : State :=
  { s with phase := .idle, status := status, rdata := rdata }

/-- `return Ok(v)`. -/
def returnOk (rdata : Option (List Byte)) (s : State) : State := finish .ok rdata s

/-- `raise <Status>`: the operation ends with that status "and no data"; nothing is saved and control goes nowhere special
(60_exceptions.md R128). -/
def raise (status : Status) (s : State) : State := finish status none s

/-! ## The outside world between two steps -/

/-- A reset "equivalent to creation", with the configuration from the parameters and "no event emitted"
(70_reset_and_hazards.md R140): every value is the one of creation (10_state.md R36). `rx` and `wake`, for which R36 gives none,
stay as they are: no line is touched, and `rx` is the environment's (log entry 11). -/
def resetEngine (s : State) : State :=
  { State.create s.cfg s.params with rx := s.rx, wake := s.wake, inputs := s.inputs, draws := s.draws }

/-- The end of the process: "Nothing is flushed and no event is emitted" (70_reset_and_hazards.md R141); the transport stays as it
is, and the engine takes no further input. A read that was held never returns (log entry 11). -/
def destroyEngine (s : State) : State := { s with inputs := [] }

end Sys2Proof.Machine
end

