-- ==== Sys2Proof/Machine/Operands.lean ====
section
/-! DEFINITION. What an operation does with its operands: the checks before it starts, the operand latches, and the byte count
of a read (10_state.md R25, 30_encoding.md R75, 60_exceptions.md R136). -/

namespace Sys2Proof.Machine

/-- Why an operation is turned away before its first event: another one is in progress (R136 (c)), or its length operand is
above 255 (R136 (e); log entries 17 and 21). -/
def entryRefusal (len : Nat) (s : State) : Option Refusal :=
  if s.phase ≠ .idle then some .reentrantCall
  else if len ≤ Config.lenMax then none
  else some .operandOutOfDomain

/-- The operand latches of sendFrame. -/
def latchFrame (id : Byte) (data : List Byte) (s : State) : State :=
  { s with work := { s.work with op := .sendFrame, id := id, len := BitVec.ofNat 8 data.length, data := data } }

/-- The operand latches of sendHeader, which "ignores `len` and `data`" (10_state.md R25): a latch that is ignored keeps its
value (log entry 15). -/
def latchHeader (id : Byte) (s : State) : State :=
  { s with work := { s.work with op := .sendHeader, id := id } }

/-- The operand latches of sendResponse and sendRaw, which "ignore `id`" (10_state.md R25). -/
def latchData (op : Op) (data : List Byte) (s : State) : State :=
  { s with work := { s.work with op := op, len := BitVec.ofNat 8 data.length, data := data } }

/-- The operand latches of a receive operation, which "ignore `id` and `data`" (10_state.md R25). -/
def latchLen (op : Op) (len : Nat) (s : State) : State :=
  { s with work := { s.work with op := op, len := BitVec.ofNat 8 len } }

/-- The operand latches of prepareReceive, which "ignores all three" (10_state.md R25). -/
def latchNone (s : State) : State :=
  { s with work := { s.work with op := .prepareReceive } }

/-- The number of bytes the `Rd` of an operation asks for: `zext_9(len) + 3` for receiveFrame, `len` for receiveRaw
(30_encoding.md R75); the other operations read nothing. -/
def readCount (w : Work) : Option Nat :=
  match w.op with
  | .receiveFrame => some (w.len.toNat + Config.rxOverhead)
  | .receiveRaw => some w.len.toNat
  | .sendFrame => none
  | .sendHeader => none
  | .sendResponse => none
  | .sendRaw => none
  | .prepareReceive => none

end Sys2Proof.Machine
end

