-- ==== Sys2Proof/Machine/Receive.lean ====
section
/-! DEFINITION. The frame decoder: the meanings of receiveFrame, receiveRaw and prepareReceive (42_decoder.md R101, R103,
R104), and how a read that is held goes on (R105). -/

namespace Sys2Proof.Machine

/-- `ADD(rxbuf[j])` for `n` offsets `j` from a first one on, with `idx` the offset summed (phase RX_CHK_CKS). -/
def addBuffer : Nat → Nat → State → State
  | _, 0, s => s
  | j, n + 1, s => addBuffer (j + 1) n (accAdd (s.work.rxbuf.read j) (setIdx j s))

/-- Check (b) of receiveFrame: the checksum over offsets `[2, n+2)` against the byte at offset `n + 2` (R101). -/
def checkChecksum (s : State) : State :=
  let n := s.work.len.toNat
  let s := setIdx (n + 2) (addBuffer 2 n (accClr (enter .rxChkCks s)))
  if accVerify s.work.acc (s.work.rxbuf.read (n + 2)) then returnOk (some (memRead s.work.rxbuf 2 n)) s
  else raise .checksumMismatch s

/-- Check (a) of receiveFrame: the identifier at offset 1 by equality of all 8 bits; it decides alone when it fails (R101,
R102). Without a configured identifier it has no meaning (R108). -/
def checkFrame (s : State) : Host.Outcome State Fault Refusal :=
  match s.cfg.ownId with
  | none => .refused .noIdentifierConfigured
  | some own =>
    let s := enter .rxChkId s
    if s.work.rxbuf.read 1 = own then .next (checkChecksum s) else .next (raise .identifierMismatch s)

/-- The bytes that the read returns fill `rxbuf` from offset 0 in arrival order (R101, R103). -/
def fillBuffer (k : Nat) (s : State) : State :=
  let b := s.rx.take k
  let s := emitRdBytes k s
  { s with work := { s.work with rxbuf := memWrite s.work.rxbuf 0 b } }

/-- `Rd(k) -> Bytes(b)` and what the operation in progress does with them. -/
def completeRead (k : Nat) (s : State) : Host.Outcome State Fault Refusal :=
  let s := fillBuffer k s
  match s.work.op with
  | .receiveFrame => checkFrame s
  | .receiveRaw => .next (returnOk (some (memRead s.work.rxbuf 0 s.work.len.toNat)) s)
  | .sendFrame => .fault .phaseInsideOperation
  | .sendHeader => .fault .phaseInsideOperation
  | .sendResponse => .fault .phaseInsideOperation
  | .sendRaw => .fault .phaseInsideOperation
  | .prepareReceive => .fault .phaseInsideOperation

/-- `Rd(k) -> Timeout`, having consumed `j` pending bytes: TransportTimeout, nothing validated (60_exceptions.md R124). -/
def timeoutRead (k j : Nat) (s : State) : State := raise .transportTimeout (emitRdTimeout k j s)

/-- Phase RX_READ: the read returns at once when `k` bytes are pending, and is held otherwise (R105, 20_memory.md R53). -/
def readOrHold (k : Nat) (s : State) : Host.Outcome State Fault Refusal :=
  let s := enter .rxRead s
  if k ≤ s.rx.length then completeRead k s else .next s

/-- The shape of a receive operation (R100): refused on a closed transport; `NoData` when no byte is pending; else one read
of `k` bytes, at which `rx` is again the environment's (20_memory.md R51). -/
def startReceive (k : Nat) (s : State) : Host.Outcome State Fault Refusal :=
  match s.tp with
  | .closed => .refused .transportNotListening
  | .openAt _ =>
    let s := emitAvail (enter .rxPoll s)
    if s.rx.isEmpty then .next (raise .noData s) else readOrHold k (awaitRead s)

/-- receiveFrame (R101). -/
def execReceiveFrame (len : Nat) (s : State) : Host.Outcome State Fault Refusal :=
  match entryRefusal len s with
  | some r => .refused r
  | none => startReceive (len + Config.rxOverhead) (latchLen .receiveFrame len s)

/-- receiveRaw (R103). -/
def execReceiveRaw (len : Nat) (s : State) : Host.Outcome State Fault Refusal :=
  match entryRefusal len s with
  | some r => .refused r
  | none => startReceive len (latchLen .receiveRaw len s)

/-- The body of prepareReceive (R104). -/
def prepareReceiveBody (s : State) : State := returnOk none (emitCfg (enter .cfg (latchNone s)))

/-- prepareReceive (R104). -/
def execPrepareReceive (s : State) : Host.Outcome State Fault Refusal :=
  match entryRefusal 0 s with
  | some r => .refused r
  | none => .next (prepareReceiveBody s)

end Sys2Proof.Machine
end

