-- ==== Sys2Proof/Machine/Send.lean ====
section
/-! DEFINITION. The frame encoder: the meanings of sendFrame, sendHeader, sendResponse and sendRaw (41_encoder.md R91 to R94).
Each body reads as the rule's pseudocode does. -/

namespace Sys2Proof.Machine

/-- `c <- cks(data)`: phase CKS, `CLR` and `ADD(data[i])` for each `i`; `FIN` reads `acc`, which nothing changes before the
checksum byte is written. -/
def checksumPhase (data : List Byte) (s : State) : State := accAddAll data (accClr (enter .cks s))

/-- The body of sendFrame (R91). -/
def sendFrameBody (id : Byte) (data : List Byte) (s : State) : State :=
  let s := checksumPhase data (latchFrame id data s)
  let c := accFin s.work.acc
  let s := wakeBefore s
  let s := synchBreak Config.breakBits (enter .brk s)
  let s := emitCfg (enter .cfg s)
  let k0 := emitWr Config.syncByte (enter .txSync s)
  let k1 := emitWr id (enter .txId k0.1)
  let d := emitData 0 data (enter .txData k1.1)
  let kc := emitWr c (enter .txCks d.1)
  let s := emitClose (enter .close kc.1)
  let s := sleepAfter s
  finish (statusOfWrites (k0.2 && k1.2 && d.2 && kc.2)) none s

/-- The body of sendHeader (R92). -/
def sendHeaderBody (id : Byte) (s : State) : State :=
  let s := synchBreak Config.breakBits (enter .brk (latchHeader id s))
  let s := emitCfg (enter .cfg s)
  let k0 := emitWr Config.syncByte (enter .txSync s)
  let k1 := emitWr id (enter .txId k0.1)
  let s := emitClose (enter .close k1.1)
  finish (statusOfWrites (k0.2 && k1.2)) none s

/-- The body of sendResponse (R93). -/
def sendResponseBody (data : List Byte) (s : State) : State :=
  let s := checksumPhase data (latchData .sendResponse data s)
  let c := accFin s.work.acc
  let s := emitCfg (enter .cfg s)
  let d := emitData 0 data (enter .txData s)
  let kc := emitWr c (enter .txCks d.1)
  let s := emitClose (enter .close kc.1)
  finish (statusOfWrites (d.2 && kc.2)) none s

/-- The body of sendRaw (R94). -/
def sendRawBody (data : List Byte) (s : State) : State :=
  let s := synchBreak Config.breakBits (enter .brk (latchData .sendRaw data s))
  let s := emitCfg (enter .cfg s)
  let d := emitData 0 data (enter .txData s)
  let s := emitClose (enter .close d.1)
  finish (statusOfWrites d.2) none s

/-- sendFrame (R91). -/
def execSendFrame (id : Byte) (data : List Byte) (s : State) : Host.Outcome State Fault Refusal :=
  match entryRefusal data.length s with
  | some r => .refused r
  | none => .next (sendFrameBody id data s)

/-- sendHeader (R92). -/
def execSendHeader (id : Byte) (s : State) : Host.Outcome State Fault Refusal :=
  match entryRefusal 0 s with
  | some r => .refused r
  | none => .next (sendHeaderBody id s)

/-- sendResponse (R93). -/
def execSendResponse (data : List Byte) (s : State) : Host.Outcome State Fault Refusal :=
  match entryRefusal data.length s with
  | some r => .refused r
  | none => .next (sendResponseBody data s)

/-- sendRaw (R94). -/
def execSendRaw (data : List Byte) (s : State) : Host.Outcome State Fault Refusal :=
  match entryRefusal data.length s with
  | some r => .refused r
  | none => .next (sendRawBody data s)

end Sys2Proof.Machine
end

