-- ==== Sys2Proof/Machine/Dispatch.lean ====
section
/-! DEFINITION. One arm per operation, each one call of its meaning. -/

namespace Sys2Proof.Machine

def exec (i : Instr) (s : State) : Host.Outcome State Fault Refusal :=
  match i with
  | .sendFrame id data => Sys2Proof.Machine.execSendFrame id data s
  | .sendHeader id => Sys2Proof.Machine.execSendHeader id s
  | .sendResponse data => Sys2Proof.Machine.execSendResponse data s
  | .sendRaw data => Sys2Proof.Machine.execSendRaw data s
  | .receiveFrame len => Sys2Proof.Machine.execReceiveFrame len s
  | .receiveRaw len => Sys2Proof.Machine.execReceiveRaw len s
  | .prepareReceive => Sys2Proof.Machine.execPrepareReceive s

end Sys2Proof.Machine
end

