-- ==== Sys2Proof/Machine/Sequencer.lean ====
section
/-! DEFINITION. What the machine does between operations and while a read is held: it takes the next thing the outside world
does (log entry 6). -/

namespace Sys2Proof.Machine

/-- Why a command that decodes to no instruction is refused (60_exceptions.md R136 (d), (e)). -/
def refusalOf : DecodeError → Refusal
  | .reservedCommand => .reservedCommand
  | .dataLengthMismatch => .operandOutOfDomain

/-- The caller invokes the operation of a command (20_memory.md R50). -/
def runCall (c : Command) (s : State) : Host.Outcome State Fault Refusal :=
  match decode c with
  | .instr i => exec i s
  | .rejected e => .refused (refusalOf e)

/-- One step with no operation in progress. With nothing to take, the engine waits. A transport timeout concerns no read,
so nothing happens (log entry 12). -/
def stepIdle (s : State) : Host.Outcome State Fault Refusal :=
  match s.inputs with
  | [] => .next s
  | .call c :: rest => runCall c { s with inputs := rest }
  | .arrive bytes :: rest => .next { s with rx := s.rx ++ bytes, inputs := rest }
  | .rxBecomes bytes :: rest => .next { s with rx := bytes, inputs := rest }
  | .timeout _ :: rest => .next { s with inputs := rest }
  | .reset :: rest => .next (resetEngine { s with inputs := rest })
  | .destroy :: _ => .next (destroyEngine s)

/-- One step of a read of `k` bytes that is held with fewer pending (42_decoder.md R105): "What lifts the hold is always a step
of the environment; the engine itself never gives up." A timeout happens only if `RX_TIMEOUT` is finite (decision D17; log
entry 12). -/
def stepWaiting (k : Nat) (s : State) : Host.Outcome State Fault Refusal :=
  match s.inputs with
  | [] => .next s
  | .call _ :: _ => .refused .reentrantCall
  | .arrive bytes :: rest => .next { s with rx := s.rx ++ bytes, inputs := rest }
  | .rxBecomes bytes :: rest => .next { s with rx := bytes, inputs := rest }
  | .timeout j :: rest =>
    if s.params.rxTimeout.isSome then .next (timeoutRead k j { s with inputs := rest })
    else .next { s with inputs := rest }
  | .reset :: _ => .refused .operationCutShort
  | .destroy :: _ => .next (destroyEngine s)

/-- One step with a read in progress: it goes on as soon as its bytes are pending. -/
def stepReading (s : State) : Host.Outcome State Fault Refusal :=
  match readCount s.work with
  | none => .fault .phaseInsideOperation
  | some k => if k ≤ s.rx.length then completeRead k s else stepWaiting k s

/-- The whole step. Between two steps the sequencer stands in `IDLE` or in `RX_READ`: the other phases are passed through
inside one step (log entry 13). -/
def sequenceStep (s : State) : Host.Outcome State Fault Refusal :=
  match s.phase with
  | .idle => stepIdle s
  | .rxRead => stepReading s
  | .cks => .fault .phaseInsideOperation
  | .wake => .fault .phaseInsideOperation
  | .brk => .fault .phaseInsideOperation
  | .cfg => .fault .phaseInsideOperation
  | .txSync => .fault .phaseInsideOperation
  | .txId => .fault .phaseInsideOperation
  | .txData => .fault .phaseInsideOperation
  | .txCks => .fault .phaseInsideOperation
  | .close => .fault .phaseInsideOperation
  | .sleep => .fault .phaseInsideOperation
  | .rxPoll => .fault .phaseInsideOperation
  | .rxChkId => .fault .phaseInsideOperation
  | .rxChkCks => .fault .phaseInsideOperation
  | .done => .fault .phaseInsideOperation

end Sys2Proof.Machine
end

