-- ==== Sys2Proof/Machine/Step.lean ====
section
/-! DEFINITION. One step, and how a word of the opcode table is placed where the next step takes it. -/

namespace Sys2Proof.Machine

/-- One step of the machine. -/
def step (s : State) : Host.Outcome State Fault Refusal := sequenceStep s

/-- The caller's next call is the command of an opcode-table word, with zero data bytes, and the engine is idle, so that the
next step runs it (log entry 6). -/
def State.withFetchWord (s : State) (nbits w : Nat) : State :=
  { s with phase := .idle, inputs := .call (Command.ofTableWord nbits w) :: s.inputs }

end Sys2Proof.Machine
end

