-- ==== Sys2Proof/Machine/Run.lean ====
section
/-! DEFINITION. A run of a program: when it is over, and its observable outcome (60_exceptions.md R138). -/

namespace Sys2Proof.Machine

/-- A result as the caller receives it: the status, and the data when there are any (10_state.md R26, 30_encoding.md R71). -/
abbrev Result := Status × Option (List Byte)

/-- What the caller receives of the operation that ended. -/
def resultOf (s : State) : Result := (s.status, s.rdata)

/-- The input is a call of the caller. -/
def Input.isCall : Input → Bool
  | .call _ => true
  | .arrive _ => false
  | .rxBecomes _ => false
  | .timeout _ => false
  | .reset => false
  | .destroy => false

/-- An operation is in progress once the step from `s` has begun: its read is held, or the caller's call is taken. -/
def operationRuns (s : State) : Bool :=
  decide (s.phase = .rxRead) ||
    match s.inputs with
    | i :: _ => i.isCall
    | [] => false

/-- The step from `s` to `t` ended an operation: one was in progress, and `phase` is `IDLE` again. -/
def endsOperation (s t : State) : Bool := operationRuns s && decide (t.phase = .idle)

/-- "A run of a program is over when its last operation has returned its result and `phase = IDLE`" (R138): no call is left to take.
DESIGN CHOICE (log entry 23), unsafe: the end of the process between operations drops the calls still to come, and the run is then
over, with the results so far; R138 and 70_reset_and_hazards.md R141 do not say. -/
def runIsOver (s : State) : Bool := decide (s.phase = .idle) && s.inputs.all (fun i => !i.isCall)

/-- The results of the operations that end within `k` steps, in order, and the state after them. `none` when a step is refused
or faults. DESIGN CHOICE (log entry 23), unsafe: a run may cross a reset between operations, and the results from before it stay in
the list, though `hist` and `tx` begin anew; R138 and 70_reset_and_hazards.md R140 do not say. -/
def runResults : Nat → State → Option (List Result × State)
  | 0, s => some ([], s)
  | k + 1, s =>
    match step s with
    | .next t =>
      match runResults k t with
      | some (results, u) => some (if endsOperation s t then resultOf t :: results else results, u)
      | none => none
    | .fault _ => none
    | .refused _ => none

/-- "The observable outcome of a run is the list of results in order, the final `(tp, rx, tx, line, wake)`, and the history
`hist`" (R138). -/
structure RunOutcome where
  results : List Result
  tp : Transport
  rx : List Byte
  tx : List Byte
  line : Level
  wake : Level
  hist : List Event
  deriving DecidableEq, Repr

/-- The observable outcome of the run of `k` steps from `s`. A run that was refused has none, and one that is not over, such as
one with a read held, has none yet (R138). For a run that meets the end of the process or a reset, see log entry 23. -/
def runOutcome (k : Nat) (s : State) : Option RunOutcome :=
  match runResults k s with
  | some (results, t) =>
    if runIsOver t then
      some { results := results, tp := t.tp, rx := t.rx, tx := t.tx, line := t.line, wake := t.wake, hist := t.hist }
    else none
  | none => none

end Sys2Proof.Machine
end

