-- ==== Sys2Proof/Safety.lean ====
section
/-! DEFINITION. What the history says of the collaborators, the invariant of the machine, the caller's contract, and what a
safe run is. -/

namespace Sys2Proof.Safety

open Sys2Proof.Machine

/-! ## Reading the event history (10_state.md R32 to R34) -/

/-- The bytes of the `Wr` events, in order. -/
def writtenBytes (h : List Event) : List Byte :=
  h.filterMap fun e => match e with
    | .wr v _ => some v
    | .cfg _ | .avail _ | .rd _ _ | .close | .line _ _ | .delay _ => none

/-- What one event makes of the transport. -/
def transportAfter (tp : Transport) : Event → Transport
  | .cfg b => .openAt b
  | .close => .closed
  | .wr _ _ | .avail _ | .rd _ _ | .line _ _ | .delay _ => tp

/-- The transport after a history that began with it closed. -/
def transportOf (h : List Event) : Transport := h.foldl transportAfter .closed

/-- What one event makes of the transmit line. -/
def lineAfter (l : Level) : Event → Level
  | .line .tx l' => l'
  | .line .wake _ | .cfg _ | .wr _ _ | .avail _ | .rd _ _ | .close | .delay _ => l

/-- The transmit line after a history that began with it high. -/
def lineOf (h : List Event) : Level := h.foldl lineAfter .high

/-- What one event makes of the last level driven on the wake line. -/
def wakeAfter (l : Option Level) : Event → Option Level
  | .line .wake l' => some l'
  | .line .tx _ | .cfg _ | .wr _ _ | .avail _ | .rd _ _ | .close | .delay _ => l

/-- The last level driven on the wake line, if any was. -/
def wakeOf (h : List Event) : Option Level := h.foldl wakeAfter none

/-- The event is not a configuration at a rate other than `b`. -/
def atRate (b : Nat) : Event → Bool
  | .cfg b' => b' == b
  | .wr _ _ | .avail _ | .rd _ _ | .close | .line _ _ | .delay _ => true

/-! ## The invariant -/

/-- Between two steps: the sequencer stands in `IDLE`, or holds a read of a receive operation with the transport open. -/
def Sequenced (s : State) : Prop :=
  s.phase = .idle ∨
    (s.phase = .rxRead ∧ s.tp ≠ .closed ∧ (s.work.op = .receiveFrame ∨ s.work.op = .receiveRaw))

/-- The invariant that every step keeps. -/
structure Inv (s : State) : Prop where
  /-- `BAUD` is "a positive integer" (00_scope.md R5). -/
  positive : 0 < s.cfg.baud
  /-- The buffer is in its canonical form. -/
  buffer : s.work.rxbuf.wf = true
  /-- The sequencer is where a step leaves it. -/
  sequenced : Sequenced s
  /-- `tx` is "the sequence of bytes written so far" (R32). -/
  written : s.tx = writtenBytes s.hist
  /-- `tp` is what the last `Cfg` or `Close` made of it (R32). -/
  transport : s.tp = transportOf s.hist
  /-- `line` is the level last driven (R33). -/
  driven : s.line = lineOf s.hist
  /-- No operation leaves the line dominant (43_synch_break.md R117). -/
  released : s.line = .high
  /-- `wake` is the level last driven, once one was (R33). -/
  woken : ∀ l, wakeOf s.hist = some l → s.wake = l
  /-- Without `WAKE_CTRL` the engine never touches the wake line (00_scope.md R9). -/
  untouched : s.params.wakeCtrl = false → wakeOf s.hist = none
  /-- `BAUD` "is passed unchanged to every `configure` call" (00_scope.md R5). -/
  rate : s.hist.all (atRate s.cfg.baud) = true
  /-- `rdata` exists only with `Ok` (42_decoder.md R110). -/
  result : s.rdata ≠ none → s.status = .ok

/-! ## The caller's contract and safe runs -/

/-- The operation takes bytes from the inbound stream. -/
def reads (i : Instr) : Bool :=
  match i with
  | .receiveFrame _ => true
  | .receiveRaw _ => true
  | .sendFrame _ _ => false
  | .sendHeader _ => false
  | .sendResponse _ => false
  | .sendRaw _ => false
  | .prepareReceive => false

/-- The operation compares an identifier. -/
def comparesId (i : Instr) : Bool :=
  match i with
  | .receiveFrame _ => true
  | .receiveRaw _ => false
  | .sendFrame _ _ => false
  | .sendHeader _ => false
  | .sendResponse _ => false
  | .sendRaw _ => false
  | .prepareReceive => false

/-- What the caller owes when it invokes an operation (60_exceptions.md R136, 70_reset_and_hazards.md R142 to R144). -/
structure Contract (i : Instr) (s : State) : Prop where
  domain : i.WellFormed
  alone : s.phase = .idle
  listening : reads i = true → s.tp ≠ .closed
  identified : comparesId i = true → s.cfg.ownId ≠ none

/-- The machine answered a next state. -/
def Answers (o : Host.Outcome State Fault Refusal) : Prop := ∃ t, o = .next t

/-- A run of `k` steps in which no rule is breached and nothing stops. -/
def SafeRun (k : Nat) (s : State) : Prop := ∃ t, Host.Core.run Sys2Proof.core k s = .next t

/-- Two states that differ at most in the working registers (10_state.md R37). -/
def SameButWork (s t : State) : Prop := { s with work := t.work } = t

/-- Two outcomes that stop alike, or go on to states that differ at most in the working registers. -/
def OutcomesSameButWork : Host.Outcome State Fault Refusal → Host.Outcome State Fault Refusal → Prop
  | .next s, .next t => SameButWork s t
  | .fault f, .fault g => f = g
  | .refused r, .refused q => r = q
  | .next _, .fault _ | .next _, .refused _ | .fault _, .next _ | .fault _, .refused _ | .refused _, .next _
  | .refused _, .fault _ => False

end Sys2Proof.Safety
end

