-- ==== Sys2Proof/Certificates/Slice0/Obligations.lean ====
section
/-! DEFINITION. The statements for the provers. Each docstring names the rule of spec/ it rests on. -/

namespace Sys2Proof.Statements

open Sys2Proof.Machine

/-- `sum(data)`: "the sum of the bytes as natural numbers" (40_checksum.md R80). -/
def natSum (data : List Byte) : Nat := (data.map BitVec.toNat).sum

/-- `255 - ((sum(data) + 1) mod 256)`, the formula of 40_checksum.md R80 on natural numbers. -/
def checksumByte (data : List Byte) : Byte := BitVec.ofNat 8 (255 - (natSum data + 1) % 256)

/-- The three events of a break of 13 bit-times (43_synch_break.md R113, R114, R115). -/
def breakEvents (baud : Nat) : List Event :=
  [.line .tx .low, .delay (13 * ((4 * baud + 217) / 434)), .line .tx .high]

/-- One `Wr` event per byte, each with its answer. -/
def writeEvents (bytes : List Byte) (answers : List Bool) : List Event := List.zipWith Event.wr bytes answers

/-- `Ok` if every answer is true, `WriteFailure` otherwise (41_encoder.md R95). -/
def sendStatus (answers : List Bool) : Status := if answers.all (fun a => a) then .ok else .writeFailure

/-- The events of `wake_before` (41_encoder.md R96). -/
def wakeEvents (p : Params) : List Event :=
  if p.wakeCtrl then [.line .wake p.wakeActive, .delay 20] else []

/-- The level that is not the given one. -/
def otherLevel (l : Level) : Level := if l = .high then .low else .high

/-- The events of `sleep_after` (41_encoder.md R96). -/
def sleepEvents (p : Params) : List Event :=
  if p.wakeCtrl then [.line .wake (otherLevel p.wakeActive)] else []

/-- The byte part of a send's wire format, in wire order (30_encoding.md R61 to R64). -/
def wireBytes (i : Instr) : List Byte :=
  match i with
  | .sendFrame id data => [0x55#8, id] ++ data ++ [checksumByte data]
  | .sendHeader id => [0x55#8, id]
  | .sendResponse data => data ++ [checksumByte data]
  | .sendRaw data => data
  | .receiveFrame _ => []
  | .receiveRaw _ => []
  | .prepareReceive => []

/-- The four send operations (00_scope.md R1). -/
def IsSend (i : Instr) : Prop :=
  match i with
  | .sendFrame _ _ => True
  | .sendHeader _ => True
  | .sendResponse _ => True
  | .sendRaw _ => True
  | .receiveFrame _ => False
  | .receiveRaw _ => False
  | .prepareReceive => False

/-- The two operations that take bytes from the inbound stream (20_memory.md R40). -/
def IsReceive (i : Instr) : Prop :=
  match i with
  | .receiveFrame _ => True
  | .receiveRaw _ => True
  | .sendFrame _ _ => False
  | .sendHeader _ => False
  | .sendResponse _ => False
  | .sendRaw _ => False
  | .prepareReceive => False

/-- The operation's format has a break (30_encoding.md R61 to R64). -/
def HasBreak (i : Instr) : Prop :=
  match i with
  | .sendFrame _ _ => True
  | .sendHeader _ => True
  | .sendRaw _ => True
  | .sendResponse _ => False
  | .receiveFrame _ => False
  | .receiveRaw _ => False
  | .prepareReceive => False

/-- The operation's format has a checksum that the encoder computes (30_encoding.md R61, R63). -/
def ComputesChecksum (i : Instr) : Prop :=
  match i with
  | .sendFrame _ _ => True
  | .sendResponse _ => True
  | .sendHeader _ => False
  | .sendRaw _ => False
  | .receiveFrame _ => False
  | .receiveRaw _ => False
  | .prepareReceive => False

/-- The operation takes an identifier operand (30_encoding.md R70). -/
def TakesId (i : Instr) : Prop :=
  match i with
  | .sendFrame _ _ => True
  | .sendHeader _ => True
  | .sendResponse _ => False
  | .sendRaw _ => False
  | .receiveFrame _ => False
  | .receiveRaw _ => False
  | .prepareReceive => False

/-- The operation takes data to send (30_encoding.md R70). -/
def TakesData (i : Instr) : Prop :=
  match i with
  | .sendFrame _ _ => True
  | .sendResponse _ => True
  | .sendRaw _ => True
  | .sendHeader _ => False
  | .receiveFrame _ => False
  | .receiveRaw _ => False
  | .prepareReceive => False

/-- The number of bytes the operation's one `Rd` asks for (30_encoding.md R75). -/
def bytesAsked (i : Instr) : Nat :=
  match i with
  | .receiveFrame n => n + 3
  | .receiveRaw n => n
  | .sendFrame _ _ => 0
  | .sendHeader _ => 0
  | .sendResponse _ => 0
  | .sendRaw _ => 0
  | .prepareReceive => 0

/-- What is pending at the `Rd` of a receive that starts in `s`: what is pending in `s`, unless the environment makes something
else of it between the `Avail` and the `Rd` (20_memory.md R51; log entry 22). -/
def pendingAtRead (s : State) : List Byte := s.draws.rxAtRead s.rx

/-- A receive has ended in `t` with a status, having read `k` of the bytes pending at its `Rd`: it changed `rx`, the history and
the engine's own registers, and nothing else of the collaborators (42_decoder.md R100, R106). -/
structure ReceiveEnded (k : Nat) (status : Status) (rdata : Option (List Byte)) (s t : State) : Prop where
  phase : t.phase = .idle
  status : t.status = status
  rdata : t.rdata = rdata
  rx : t.rx = (pendingAtRead s).drop k
  hist : t.hist = s.hist ++ [.avail true, .rd k (.bytes ((pendingAtRead s).take k))]
  tp : t.tp = s.tp
  tx : t.tx = s.tx
  line : t.line = s.line
  wake : t.wake = s.wake

/-- A receive of `k` bytes is held in `t`: it polled, and its read has too few bytes (42_decoder.md R105). -/
structure ReceiveHeld (s t : State) : Prop where
  phase : t.phase = .rxRead
  rx : t.rx = pendingAtRead s
  hist : t.hist = s.hist ++ [.avail true]
  tp : t.tp = s.tp
  tx : t.tx = s.tx
  line : t.line = s.line
  wake : t.wake = s.wake
  status : t.status = s.status
  rdata : t.rdata = s.rdata

/-- A receive found nothing pending: `NoData` at once, with the single event `Avail() -> false` (60_exceptions.md R121). -/
structure ReceiveFoundNothing (s t : State) : Prop where
  phase : t.phase = .idle
  status : t.status = .noData
  rdata : t.rdata = none
  rx : t.rx = []
  hist : t.hist = s.hist ++ [.avail false]
  tp : t.tp = s.tp
  tx : t.tx = s.tx
  line : t.line = s.line
  wake : t.wake = s.wake

/-- A held read has timed out having consumed `j` bytes (20_memory.md R53, 60_exceptions.md R124). -/
structure ReadTimedOut (k j : Nat) (s t : State) : Prop where
  phase : t.phase = .idle
  status : t.status = .transportTimeout
  rdata : t.rdata = none
  rx : t.rx = s.rx.drop j
  hist : t.hist = s.hist ++ [.rd k .timeout]
  tp : t.tp = s.tp
  tx : t.tx = s.tx
  line : t.line = s.line
  wake : t.wake = s.wake
  rxbuf : t.work.rxbuf = s.work.rxbuf

end Sys2Proof.Statements

open Sys2Proof Sys2Proof.Machine Sys2Proof.Safety Sys2Proof.Statements

/-! ## Encoding (30_encoding.md) -/

/-- Words written out from 30_encoding.md R70 and 95_test_vectors.md Part 3 decode to the operations they stand for. -/
def Obligations.CommandWordsDecodeAsTheTableSays : Prop :=
  decode ⟨0b000_00111100_00000010#19, [0x00#8, 0xFF#8]⟩ = .instr (.sendFrame 0x3C#8 [0x00#8, 0xFF#8]) ∧
  decode ⟨0b001_00100010_00000000#19, []⟩ = .instr (.sendHeader 0x22#8) ∧
  decode ⟨0b010_00000000_00000010#19, [0x01#8, 0x02#8]⟩ = .instr (.sendResponse [0x01#8, 0x02#8]) ∧
  decode ⟨0b011_00000000_00000100#19, [0xDE#8, 0xAD#8, 0xBE#8, 0xEF#8]⟩ =
    .instr (.sendRaw [0xDE#8, 0xAD#8, 0xBE#8, 0xEF#8]) ∧
  decode ⟨0b100_00000000_00000011#19, []⟩ = .instr (.receiveFrame 3) ∧
  decode ⟨0b101_00000000_00000100#19, []⟩ = .instr (.receiveRaw 4) ∧
  decode ⟨0b110_00000000_00000000#19, []⟩ = .instr .prepareReceive ∧
  decode ⟨0b111_00000000_00000000#19, []⟩ = .rejected .reservedCommand

/-- No operand of a well-formed operation is lost by its command (30_encoding.md R70). -/
def Obligations.DecodeOfEncodeIsTheInstruction : Prop :=
  ∀ i : Instr, i.WellFormed → decode (encode i) = .instr i

/-- A command that decodes stands for a well-formed operation, and agrees with that operation's own command in the command
code and in every field and data byte the operation uses (30_encoding.md R70: "operands an operation does not use are
ignored"). -/
def Obligations.EncodeOfDecodeKeepsEveryUsedField : Prop :=
  ∀ (c : Command) (i : Instr), decode c = .instr i →
    i.WellFormed ∧
    (encode i).opField = c.opField ∧
    (TakesId i → (encode i).idField = c.idField) ∧
    (TakesData i ∨ IsReceive i → (encode i).lenField = c.lenField) ∧
    (TakesData i → (encode i).data = c.data)

/-- 30_encoding.md R70: `op` is `cmd[18:16]`, `id` is `cmd[15:8]`, `len` is `cmd[7:0]`; each code selects its operation with
the operands the table lists; 60_exceptions.md R136 (d), (e) say what is turned away. -/
def Obligations.CommandFieldsSelectTheOperation : Prop :=
  ∀ c : Command,
    let op := c.header.toNat / 65536
    let id := BitVec.ofNat 8 (c.header.toNat / 256 % 256)
    let len := c.header.toNat % 256
    (op = 0 → decode c = if c.data.length = len then .instr (.sendFrame id c.data) else .rejected .dataLengthMismatch) ∧
    (op = 1 → decode c = .instr (.sendHeader id)) ∧
    (op = 2 → decode c = if c.data.length = len then .instr (.sendResponse c.data) else .rejected .dataLengthMismatch) ∧
    (op = 3 → decode c = if c.data.length = len then .instr (.sendRaw c.data) else .rejected .dataLengthMismatch) ∧
    (op = 4 → decode c = .instr (.receiveFrame len)) ∧
    (op = 5 → decode c = .instr (.receiveRaw len)) ∧
    (op = 6 → decode c = .instr .prepareReceive) ∧
    (op = 7 → decode c = .rejected .reservedCommand) ∧
    op < 8

/-! ## Creation (10_state.md R36) -/

/-- 10_state.md R36: the values just after creation, for every creation argument. -/
def Obligations.CreationLeavesTheStatedValues : Prop :=
  ∀ (cfg : Cfg) (params : Params),
    (State.create cfg params).cfg = cfg ∧
    (State.create cfg params).cfg.period = (4 * cfg.baud + 217) / 434 ∧
    (State.create cfg params).phase = .idle ∧
    (State.create cfg params).tp = .closed ∧
    (State.create cfg params).tx = [] ∧
    (State.create cfg params).line = .high ∧
    (State.create cfg params).hist = []

/-- The machine's reset state is a creation, with any positive `BAUD`, any `OWN_ID`, any `WAKE_ACTIVE` and `RX_TIMEOUT` (free
constants: the model's choice, log entry 1), and `WAKE_CTRL` at its default false (00_scope.md R9). -/
def Obligations.ResetIsACreation : Prop :=
  ∃ (cfg : Cfg) (params : Params),
    State.reset = State.create cfg params ∧
    cfg.baud = Config.baud ∧ 0 < cfg.baud ∧ cfg.ownId = Config.ownId ∧
    params.wakeCtrl = false ∧ params.wakeActive = Config.wakeActive ∧ params.rxTimeout = Config.rxTimeout

/-- 30_encoding.md R71: the status codes; `110` and `111` are never produced. -/
def Obligations.StatusCodesFollowTheTable : Prop :=
  Status.ok.code = 0b000#3 ∧ Status.noData.code = 0b001#3 ∧ Status.identifierMismatch.code = 0b010#3 ∧
  Status.checksumMismatch.code = 0b011#3 ∧ Status.transportTimeout.code = 0b100#3 ∧ Status.writeFailure.code = 0b101#3 ∧
  ∀ st : Status, st.code ≠ 0b110#3 ∧ st.code ≠ 0b111#3

/-! ## Arithmetic (43_synch_break.md, 40_checksum.md) -/

/-- 43_synch_break.md R114: `PERIOD` is the nearest integer to `BAUD / 108.5 = 2 * BAUD / 217`, no tie occurs, it is
`floor((4 * BAUD + 217) / 434)`, and it grows with `BAUD`. -/
def Obligations.PeriodIsTheNearestInteger : Prop :=
  (∀ c : Cfg, c.period = (4 * c.baud + 217) / 434 ∧ 434 * c.period < 4 * c.baud + 217 ∧ 4 * c.baud < 434 * c.period + 217) ∧
  ∀ c d : Cfg, c.baud ≤ d.baud → c.period ≤ d.period

/-- 43_synch_break.md R113, R115: a break of any number of bits is three events, also when the hold is zero, the hold is
`bits * PERIOD` microseconds, and the line is low until the third event and high after it, whatever it was before. -/
def Obligations.BreakHoldsTheLineForBitsTimesPeriod : Prop :=
  ∀ (bits : Nat) (s : State),
    (synchBreak bits s).hist =
      s.hist ++ [.line .tx .low, .delay (bits * s.cfg.period), .line .tx .high] ∧
    (synchBreak bits s).line = .high ∧
    (synchBreak bits s).work.brkCnt = bits * s.cfg.period ∧
    lineOf (s.hist ++ [.line .tx .low]) = .low ∧
    lineOf (s.hist ++ [.line .tx .low, .delay (bits * s.cfg.period)]) = .low ∧
    lineOf (synchBreak bits s).hist = .high

/-- 40_checksum.md R80 to R83: `cks(data)` is `255 - ((sum(data) + 1) mod 256)`, and `CLR`, `ADD(data[i])` for every `i` and
`FIN`, begun with anything in `acc`, give the same (the spec's own inference in R85). -/
def Obligations.ChecksumIsTheInvertedSum : Prop :=
  ∀ (data : List Byte) (s : State),
    accFin (accAddAll data (accClr s)).work.acc = checksumByte data ∧
    cks data = checksumByte data ∧
    (cks data).toNat = 255 - (natSum data + 1) % 256

/-- 40_checksum.md R83: `FIN` in the three forms the rule gives. -/
def Obligations.FinInvertsTheIncrement : Prop :=
  ∀ acc : Byte,
    (accFin acc).toNat = 255 - (acc.toNat + 1) % 256 ∧
    accFin acc = ~~~(acc + 1#8) ∧
    (accFin acc).toNat = (254 + 256 - acc.toNat) % 256

/-- 40_checksum.md R84: `VERIFY(r)` is `r = 255 - ((acc + 1) mod 256)`, and it is true for exactly one `r`. -/
def Obligations.VerifyAcceptsExactlyOneByte : Prop :=
  ∀ acc : Byte,
    (∀ r : Byte, accVerify acc r = true ↔ r.toNat = 255 - (acc.toNat + 1) % 256) ∧
    ∃ r : Byte, accVerify acc r = true ∧ ∀ r' : Byte, accVerify acc r' = true → r' = r

/-- What the checksum detects, as the spec derives it (the spec's own inferences in 40_checksum.md R84, R85 and R88): a change of
one data byte or of the checksum byte is detected; a reordering, and two changes that cancel, are not; the sum of the data and
the checksum is 0xFE modulo 256, and `VERIFY(r)` holds exactly when `acc + r` is. -/
def Obligations.ChecksumDetectsOneChangedByte : Prop :=
  (∀ (a b : List Byte) (x y : Byte), x ≠ y → cks (a ++ x :: b) ≠ cks (a ++ y :: b)) ∧
  (∀ (data : List Byte) (r : Byte), r ≠ cks data → accVerify (byteSum data) r = false) ∧
  (∀ data data' : List Byte, data.Perm data' → cks data = cks data') ∧
  (∀ (a b c : List Byte) (x y d : Byte), cks (a ++ x :: b ++ y :: c) = cks (a ++ (x + d) :: b ++ (y - d) :: c)) ∧
  (∀ data : List Byte, (natSum data + (cks data).toNat) % 256 = 0xFE) ∧
  ∀ acc r : Byte, accVerify acc r = true ↔ (acc.toNat + r.toNat) % 256 = 0xFE

/-! ## The frame encoder (41_encoder.md) -/

/-- 41_encoder.md R91: sendFrame completes from every idle state, whatever the transport and the line were, with the events,
the bytes and the status of the rule. -/
def Obligations.SendFrameResult : Prop :=
  ∀ (id : Byte) (data : List Byte) (s : State), s.phase = .idle → data.length ≤ 255 →
    let wire := [0x55#8, id] ++ data ++ [checksumByte data]
    let answers := s.draws.ackList (data.length + 3)
    ∃ t, exec (.sendFrame id data) s = .next t ∧
      t.hist = s.hist ++ (wakeEvents s.params ++ breakEvents s.cfg.baud ++ [.cfg s.cfg.baud] ++ writeEvents wire answers ++
        [.close] ++ sleepEvents s.params) ∧
      t.hist.length = s.hist.length + (data.length + 8) + (if s.params.wakeCtrl then 3 else 0) ∧
      t.tx = s.tx ++ wire ∧ t.tp = .closed ∧ t.line = .high ∧
      t.status = sendStatus answers ∧ t.rdata = none ∧ t.phase = .idle

/-- 41_encoder.md R92: sendHeader, which uses no accumulator and which `WAKE_CTRL` does not touch. -/
def Obligations.SendHeaderResult : Prop :=
  ∀ (id : Byte) (s : State), s.phase = .idle →
    let answers := s.draws.ackList 2
    ∃ t, exec (.sendHeader id) s = .next t ∧
      t.hist = s.hist ++ (breakEvents s.cfg.baud ++ [.cfg s.cfg.baud] ++ writeEvents [0x55#8, id] answers ++ [.close]) ∧
      t.hist.length = s.hist.length + 7 ∧
      t.tx = s.tx ++ [0x55#8, id] ∧ t.tp = .closed ∧ t.line = .high ∧ t.wake = s.wake ∧ t.work.acc = s.work.acc ∧
      t.status = sendStatus answers ∧ t.rdata = none ∧ t.phase = .idle

/-- 41_encoder.md R93: sendResponse, with no break: the line is untouched. -/
def Obligations.SendResponseResult : Prop :=
  ∀ (data : List Byte) (s : State), s.phase = .idle → data.length ≤ 255 →
    let wire := data ++ [checksumByte data]
    let answers := s.draws.ackList (data.length + 1)
    ∃ t, exec (.sendResponse data) s = .next t ∧
      t.hist = s.hist ++ ([.cfg s.cfg.baud] ++ writeEvents wire answers ++ [.close]) ∧
      t.hist.length = s.hist.length + (data.length + 3) ∧
      t.tx = s.tx ++ wire ∧ t.tp = .closed ∧ t.line = s.line ∧ t.wake = s.wake ∧ t.work.brkCnt = s.work.brkCnt ∧
      t.status = sendStatus answers ∧ t.rdata = none ∧ t.phase = .idle

/-- 41_encoder.md R94: sendRaw, a break and the bytes as they are; no accumulator. -/
def Obligations.SendRawResult : Prop :=
  ∀ (data : List Byte) (s : State), s.phase = .idle → data.length ≤ 255 →
    let answers := s.draws.ackList data.length
    ∃ t, exec (.sendRaw data) s = .next t ∧
      t.hist = s.hist ++ (breakEvents s.cfg.baud ++ [.cfg s.cfg.baud] ++ writeEvents data answers ++ [.close]) ∧
      t.hist.length = s.hist.length + (data.length + 5) ∧
      t.tx = s.tx ++ data ∧ t.tp = .closed ∧ t.line = .high ∧ t.wake = s.wake ∧ t.work.acc = s.work.acc ∧
      t.status = sendStatus answers ∧ t.rdata = none ∧ t.phase = .idle

/-- 41_encoder.md R95: a send returns `Ok` exactly if every `Wr` it issued answered true, `WriteFailure` otherwise, and no
other status; a failed write is not repeated and stops nothing: the bytes written are those of the format, once each and in
order, and the transport is closed at the end. -/
def Obligations.SendStatusReportsTheWrites : Prop :=
  ∀ (i : Instr) (s t : State), IsSend i → exec i s = .next t →
    ∃ new : List Event, t.hist = s.hist ++ new ∧
      writtenBytes new = wireBytes i ∧
      Event.close ∈ new ∧
      (t.status = .ok ↔ ∀ v a, Event.wr v a ∈ new → a = true) ∧
      (t.status = .ok ∨ t.status = .writeFailure)

/-- 41_encoder.md R96: with `WAKE_CTRL` sendFrame begins with `Line(WAKE, WAKE_ACTIVE), Delay(20)` and ends, after `Close()`,
with `Line(WAKE, not WAKE_ACTIVE)`, the level `wake` then has; without it, and in every other operation, no event drives the
wake line and `wake` is unchanged. -/
def Obligations.WakeWrapIsSendFramesAlone : Prop :=
  (∀ (id : Byte) (data : List Byte) (s t : State), exec (.sendFrame id data) s = .next t → s.params.wakeCtrl = true →
    t.wake = otherLevel s.params.wakeActive ∧
    ∃ middle : List Event,
      t.hist = s.hist ++ ([.line .wake s.params.wakeActive, .delay 20, .line .tx .low] ++ middle ++
        [.close, .line .wake (otherLevel s.params.wakeActive)]) ∧
      ∀ l, Event.line .wake l ∉ middle) ∧
  ∀ (i : Instr) (s t : State), exec i s = .next t →
    (s.params.wakeCtrl = false ∨ ∀ id data, i ≠ .sendFrame id data) →
    t.wake = s.wake ∧ ∃ new : List Event, t.hist = s.hist ++ new ∧ ∀ l, Event.line .wake l ∉ new

/-- The frame of the four sends (41_encoder.md R90 to R94): what none of them changes, what only some change, and that `rx`
afterwards is what the environment makes of it at `Close()` (10_state.md R32; log entry 3: the model's choice of where the
environment's answer stands). The send stores no byte of the receive frame buffer. That the latches of ignored operands, `idx` and
`brk_cnt` keep their values is the model's choice (log entry 15), and so is the script of the environment (log entry 22). -/
def Obligations.SendsLeaveTheRestUnchanged : Prop :=
  ∀ (i : Instr) (s t : State), IsSend i → exec i s = .next t →
    t.cfg = s.cfg ∧ t.params = s.params ∧ t.inputs = s.inputs ∧
    t.work.rxbuf = s.work.rxbuf ∧ (∀ x, t.work.rxbuf.read x = s.work.rxbuf.read x) ∧
    (¬ HasBreak i → t.line = s.line ∧ t.work.brkCnt = s.work.brkCnt) ∧
    (¬ ComputesChecksum i → t.work.acc = s.work.acc) ∧
    (¬ TakesId i → t.work.id = s.work.id) ∧
    (¬ TakesData i → t.work.len = s.work.len ∧ t.work.data = s.work.data ∧ t.work.idx = s.work.idx) ∧
    t.tx = s.tx ++ wireBytes i ∧
    t.rx = s.draws.popPending.nextPending ∧ t.draws.reads = s.draws.reads

/-- 30_encoding.md R74: a header followed by a response writes the bytes of the frame, with another event list: the pair closes
and reopens the transport between them. -/
def Obligations.HeaderThenResponseWritesTheFrame : Prop :=
  ∀ (id : Byte) (data : List Byte) (s : State), s.phase = .idle → data.length ≤ 255 → s.params.wakeCtrl = false →
    ∃ h r f : State,
      exec (.sendHeader id) s = .next h ∧ exec (.sendResponse data) h = .next r ∧ exec (.sendFrame id data) s = .next f ∧
      r.tx = f.tx ∧ r.tp = f.tp ∧ r.line = f.line ∧
      ∃ before after : List Event,
        r.hist = before ++ [.close, .cfg s.cfg.baud] ++ after ∧ f.hist = before ++ after

/-! ## The frame decoder (42_decoder.md) -/

/-- 42_decoder.md R101, R102, R105, R108, 60_exceptions.md R124: receiveFrame, every outcome, in the order of its steps, for
whatever the environment makes pending at its `Rd` (20_memory.md R51; the model's script, log entry 22). A read that is held
stands between two steps (log entry 13) and times out when the transport does (an input of the model's queue, log entries 6 and
12). The buffer's canonical form is part of the invariant `Safety.Inv`. -/
def Obligations.ReceiveFrameFollowsItsRule : Prop :=
  ∀ (n : Nat) (s : State), s.phase = .idle → n ≤ 255 → s.work.rxbuf.wf = true →
    (s.tp = .closed → exec (.receiveFrame n) s = .refused .transportNotListening) ∧
    (s.tp ≠ .closed → s.rx = [] → ∃ t, exec (.receiveFrame n) s = .next t ∧ ReceiveFoundNothing s t) ∧
    (s.tp ≠ .closed → s.rx ≠ [] → (pendingAtRead s).length < n + 3 →
      ∃ t, exec (.receiveFrame n) s = .next t ∧ ReceiveHeld s t ∧
        (s.params.rxTimeout ≠ none → ∀ (j : Nat) (later : List Input), j ≤ (pendingAtRead s).length →
          ∃ u, step { t with inputs := .timeout j :: later } = .next u ∧ ReadTimedOut (n + 3) j t u)) ∧
    (s.tp ≠ .closed → s.rx ≠ [] → n + 3 ≤ (pendingAtRead s).length → s.cfg.ownId = none →
      exec (.receiveFrame n) s = .refused .noIdentifierConfigured) ∧
    (∀ (sync own : Byte) (data : List Byte) (c : Byte) (rest : List Byte),
      s.tp ≠ .closed → s.rx ≠ [] → s.cfg.ownId = some own → data.length = n →
      (∀ other : Byte, other ≠ own → pendingAtRead s = sync :: other :: data ++ c :: rest →
        ∃ t, exec (.receiveFrame n) s = .next t ∧ ReceiveEnded (n + 3) .identifierMismatch none s t ∧ t.rx = rest) ∧
      (c ≠ checksumByte data → pendingAtRead s = sync :: own :: data ++ c :: rest →
        ∃ t, exec (.receiveFrame n) s = .next t ∧ ReceiveEnded (n + 3) .checksumMismatch none s t ∧ t.rx = rest) ∧
      (c = checksumByte data → pendingAtRead s = sync :: own :: data ++ c :: rest →
        ∃ t, exec (.receiveFrame n) s = .next t ∧ ReceiveEnded (n + 3) .ok (some data) s t ∧ t.rx = rest))

/-- 42_decoder.md R103, R105, 60_exceptions.md R124: receiveRaw, every outcome, for whatever the environment makes pending at its
`Rd` (20_memory.md R51; the model's script, log entry 22); it reads no identifier and uses no accumulator. A read that is held
stands between two steps (log entry 13) and times out when the transport does (an input of the model's queue, log entries 6 and
12). -/
def Obligations.ReceiveRawFollowsItsRule : Prop :=
  ∀ (n : Nat) (s : State), s.phase = .idle → n ≤ 255 → s.work.rxbuf.wf = true →
    (s.tp = .closed → exec (.receiveRaw n) s = .refused .transportNotListening) ∧
    (s.tp ≠ .closed → s.rx = [] → ∃ t, exec (.receiveRaw n) s = .next t ∧ ReceiveFoundNothing s t) ∧
    (s.tp ≠ .closed → s.rx ≠ [] → (pendingAtRead s).length < n →
      ∃ t, exec (.receiveRaw n) s = .next t ∧ ReceiveHeld s t ∧
        (s.params.rxTimeout ≠ none → ∀ (j : Nat) (later : List Input), j ≤ (pendingAtRead s).length →
          ∃ u, step { t with inputs := .timeout j :: later } = .next u ∧ ReadTimedOut n j t u)) ∧
    (s.tp ≠ .closed → s.rx ≠ [] → n ≤ (pendingAtRead s).length →
      ∃ t, exec (.receiveRaw n) s = .next t ∧ ReceiveEnded n .ok (some ((pendingAtRead s).take n)) s t ∧ t.work.acc = s.work.acc)

/-- 42_decoder.md R104: prepareReceive emits `Cfg(BAUD)` and leaves the transport open at `BAUD`, from either state of it. -/
def Obligations.PrepareReceiveOpensTheTransport : Prop :=
  ∀ s : State, s.phase = .idle →
    ∃ t, exec .prepareReceive s = .next t ∧
      t.hist = s.hist ++ [.cfg s.cfg.baud] ∧ t.tp = .openAt s.cfg.baud ∧
      t.status = .ok ∧ t.rdata = none ∧ t.phase = .idle

/-- 42_decoder.md R105: a receive that is held goes on, once the environment has appended enough bytes, exactly as if they had
been pending at its `Rd` from the start (log entries 6, 13 and 22: the model's queue of inputs, what lies between two steps, and
the environment's script). -/
def Obligations.HeldReceiveGoesOnWhenBytesArrive : Prop :=
  ∀ (i : Instr) (s h : State) (bytes : List Byte) (later : List Input), IsReceive i →
    exec i s = .next h → h.phase = .rxRead → s.inputs = .arrive bytes :: later →
    bytesAsked i ≤ (pendingAtRead s).length + bytes.length →
    ∃ g : State, step h = .next g ∧ g.phase = .rxRead ∧
      step g = exec i { s with
        inputs := later
        draws := { s.draws with reads := (pendingAtRead s ++ bytes) :: s.draws.reads.drop 1 } } ∧
      (s.draws.reads = [] → step g = exec i { s with rx := s.rx ++ bytes, inputs := later })

/-- 20_memory.md R53: a timeout ends a read only while fewer bytes than asked are pending, and then it has consumed a start of
`rx` of any length that the transport draws; with enough bytes pending the read returns them, whatever the transport would do. A
transport whose `RX_TIMEOUT` is infinite never times out (decision D17; log entries 6 and 12). -/
def Obligations.TimeoutOnlyWhileShortOfBytes : Prop :=
  ∀ (s : State) (k j : Nat) (later : List Input), s.phase = .rxRead → readCount s.work = some k →
    s.inputs = .timeout j :: later →
    (s.rx.length < k → j ≤ s.rx.length → s.params.rxTimeout ≠ none →
      ∃ t, step s = .next t ∧ ReadTimedOut k j s t ∧ s.rx.take j ++ t.rx = s.rx) ∧
    (s.rx.length < k → s.params.rxTimeout = none → step s = .next { s with inputs := later }) ∧
    (k ≤ s.rx.length → ∀ t, step s = .next t →
      t.status ≠ .transportTimeout ∧ t.rx = s.rx.drop k ∧ t.hist = s.hist ++ [.rd k (.bytes (s.rx.take k))])

/-- 42_decoder.md R106: a receive that has read has taken exactly its bytes off the front of what was pending at its `Rd`, whatever
it found in them; one that found nothing pending has taken none. -/
def Obligations.ReceiveConsumesExactlyItsBytes : Prop :=
  ∀ (i : Instr) (s t : State), IsReceive i → exec i s = .next t → t.phase = .idle →
    (s.rx = [] ∧ t.rx = [] ∧ t.status = .noData) ∨
    (∃ taken : List Byte, pendingAtRead s = taken ++ t.rx ∧ taken.length = bytesAsked i ∧
      t.hist = s.hist ++ [.avail true, .rd (bytesAsked i) (.bytes taken)] ∧
      (t.status = .ok ∨ t.status = .identifierMismatch ∨ t.status = .checksumMismatch))

/-- The frame of the receive side (42_decoder.md R100, R104): what receiveFrame, receiveRaw and prepareReceive leave unchanged,
and that the only bytes of the buffer stored to are the offsets `[0, k)` of a read of `k` bytes that completed. That the latches of
ignored operands, `idx` and the other offsets of the buffer keep their values is the model's choice (log entry 15), and so is
where the environment's answers stand (log entries 3 and 22). -/
def Obligations.ReceivesLeaveTheRestUnchanged : Prop :=
  ∀ (i : Instr) (s t : State), ¬ IsSend i → s.work.rxbuf.wf = true → exec i s = .next t →
    t.cfg = s.cfg ∧ t.params = s.params ∧ t.inputs = s.inputs ∧
    t.tx = s.tx ∧ t.line = s.line ∧ t.wake = s.wake ∧
    t.work.id = s.work.id ∧ t.work.data = s.work.data ∧ t.work.brkCnt = s.work.brkCnt ∧
    (IsReceive i → t.tp = s.tp ∧ t.draws = if s.rx = [] then s.draws else s.draws.popRead) ∧
    (¬ IsReceive i → t.work.len = s.work.len ∧ t.rx = s.draws.nextPending) ∧
    ((∀ n, i ≠ .receiveFrame n) → t.work.acc = s.work.acc ∧ t.work.idx = s.work.idx) ∧
    (∀ x, bytesAsked i ≤ x → t.work.rxbuf.read x = s.work.rxbuf.read x) ∧
    (t.phase = .rxRead ∨ t.status = .noData ∨ ¬ IsReceive i → ∀ x, t.work.rxbuf.read x = s.work.rxbuf.read x) ∧
    t.work.rxbuf.wf = true

/-- 42_decoder.md R107: "`rxbuf[0]` may be any value from 0x00 to 0xFF and the outcome is the same." Two states whose pending bytes
at the `Rd` differ in the first alone, however the environment came to make them so (20_memory.md R51; log entry 22: the model's
script of the environment). -/
def Obligations.SynchByteIsNotChecked : Prop :=
  ∀ (n : Nat) (s : State) (a b : Byte) (tail rx : List Byte) (draws : Draws), s.work.rxbuf.wf = true →
    s.rx ≠ [] → pendingAtRead s = a :: tail → rx ≠ [] → draws.rxAtRead rx = b :: tail →
    (∀ t, exec (.receiveFrame n) s = .next t →
      ∃ u, exec (.receiveFrame n) { s with rx := rx, draws := draws } = .next u ∧
        u.phase = t.phase ∧ u.status = t.status ∧ u.rdata = t.rdata ∧ (t.phase = .idle → u.rx = t.rx)) ∧
    ∀ r, exec (.receiveFrame n) s = .refused r → exec (.receiveFrame n) { s with rx := rx, draws := draws } = .refused r

/-- 42_decoder.md R110: "`rdata` exists only with `Ok`", at once or after a read was held, and only a receive returns data. -/
def Obligations.ResultDataOnlyWithOk : Prop :=
  (∀ s t : State, s.phase = .rxRead → step s = .next t → t.phase = .idle →
    ((∃ data, t.rdata = some data) ↔ t.status = .ok) ∧ (t.status ≠ .ok → resultOf t = (t.status, none))) ∧
  ∀ (i : Instr) (s t : State), exec i s = .next t → t.phase = .idle →
    ((∃ data, t.rdata = some data) ↔ t.status = .ok ∧ IsReceive i) ∧
    (t.status ≠ .ok → resultOf t = (t.status, none))

/-- 60_exceptions.md R120: which operation can return which status, at once or after its read was held. -/
def Obligations.OnlyListedStatusesAreReturned : Prop :=
  (∀ (s t : State), s.phase = .rxRead → step s = .next t → t.phase = .idle →
    t.status = .ok ∨ t.status = .transportTimeout ∨
    (s.work.op = .receiveFrame ∧ (t.status = .identifierMismatch ∨ t.status = .checksumMismatch))) ∧
  ∀ (i : Instr) (s t : State), exec i s = .next t → t.phase = .idle →
    (IsSend i → t.status = .ok ∨ t.status = .writeFailure) ∧
    ((∃ n, i = .receiveFrame n) →
      t.status = .ok ∨ t.status = .noData ∨ t.status = .identifierMismatch ∨ t.status = .checksumMismatch) ∧
    ((∃ n, i = .receiveRaw n) → t.status = .ok ∨ t.status = .noData) ∧
    (i = .prepareReceive → t.status = .ok)

/-- 42_decoder.md R109 (the spec's own inference): what sendFrame writes on one engine, pending on an engine with that identifier
and an open transport, is received as the data sent, whatever else is pending after it. -/
def Obligations.FrameRoundTrip : Prop :=
  ∀ (id : Byte) (data : List Byte) (a b : State) (rest : List Byte),
    a.phase = .idle → data.length ≤ 255 →
    b.phase = .idle → b.tp ≠ .closed → b.cfg.ownId = some id → b.work.rxbuf.wf = true →
    ∃ (sent : State) (frame : List Byte),
      exec (.sendFrame id data) a = .next sent ∧ sent.tx = a.tx ++ frame ∧
      (b.rx ≠ [] → pendingAtRead b = frame ++ rest →
        ∃ got, exec (.receiveFrame data.length) b = .next got ∧ got.status = .ok ∧ got.rdata = some data ∧ got.rx = rest)

/-- 42_decoder.md R109 (the spec's own inference): what sendRaw writes on one engine is received by receiveRaw on another as it is. -/
def Obligations.RawRoundTrip : Prop :=
  ∀ (data : List Byte) (a b : State) (rest : List Byte),
    a.phase = .idle → 0 < data.length → data.length ≤ 255 →
    b.phase = .idle → b.tp ≠ .closed → b.work.rxbuf.wf = true →
    ∃ (sent : State) (bytes : List Byte),
      exec (.sendRaw data) a = .next sent ∧ sent.tx = a.tx ++ bytes ∧
      (b.rx ≠ [] → pendingAtRead b = bytes ++ rest →
        ∃ got, exec (.receiveRaw data.length) b = .next got ∧ got.status = .ok ∧ got.rdata = some data ∧ got.rx = rest)

/-! ## The machine (60_exceptions.md, 70_reset_and_hazards.md) -/

/-- 60_exceptions.md R136: an operation is refused exactly in the cases the rule lists, each by its own name, and never faults; a
command with the code `111`, or whose data are not `len` bytes, is refused by the step that takes it. R136 gives no order: which
name is given where several apply is the model's choice (log entry 21), as is what a re-entrant call can meet (log entry 17), and
the step takes its commands from the model's queue of inputs (log entry 6). -/
def Obligations.OperationsAreRefusedExactlyAsStated : Prop :=
  (∀ (i : Instr) (s : State) (r : Refusal),
    exec i s = .refused r ↔
      (s.phase ≠ .idle ∧ r = .reentrantCall) ∨
      (s.phase = .idle ∧ 255 < i.len ∧ r = .operandOutOfDomain) ∨
      (s.phase = .idle ∧ i.len ≤ 255 ∧ IsReceive i ∧ s.tp = .closed ∧ r = .transportNotListening) ∨
      (s.phase = .idle ∧ i.len ≤ 255 ∧ (∃ n, i = .receiveFrame n) ∧ s.tp ≠ .closed ∧ s.rx ≠ [] ∧
        bytesAsked i ≤ (pendingAtRead s).length ∧ s.cfg.ownId = none ∧ r = .noIdentifierConfigured)) ∧
  (∀ (i : Instr) (s : State) (f : Fault), exec i s ≠ .fault f) ∧
  ∀ (c : Command) (s : State) (later : List Input), s.phase = .idle → s.inputs = .call c :: later →
    (c.opField = 0b111#3 → step s = .refused .reservedCommand) ∧
    (c.opField = 0b000#3 ∨ c.opField = 0b010#3 ∨ c.opField = 0b011#3 → c.data.length ≠ c.lenField.toNat →
      step s = .refused .operandOutOfDomain)

/-- A caller that keeps its contract is answered: the operation goes on to a next state (60_exceptions.md R136,
70_reset_and_hazards.md R142). -/
def Obligations.KeptContractIsAnswered : Prop :=
  ∀ (i : Instr) (s : State), Contract i s → Answers (exec i s)

/-- 70_reset_and_hazards.md R143: after a send a receive is refused, and a prepareReceive in between makes it go on. -/
def Obligations.ReceiveAfterSendNeedsPrepareReceive : Prop :=
  ∀ (i r : Instr) (s t : State), IsSend i → IsReceive r → r.WellFormed → s.cfg.ownId ≠ none → exec i s = .next t →
    exec r t = .refused .transportNotListening ∧
    ∃ u, exec .prepareReceive t = .next u ∧ Answers (exec r u)

/-- When the caller's next call is a command that decodes, the step of an idle engine is the operation on the state without
that call; a word placed by `withFetchWord` is such a call (20_memory.md R50; log entry 6: the model's queue of inputs). -/
def Obligations.StepRunsTheDecodedOperation : Prop :=
  (∀ (s : State) (c : Command) (later : List Input) (i : Instr), s.phase = .idle → s.inputs = .call c :: later →
    decode c = .instr i → step s = exec i { s with inputs := later }) ∧
  ∀ (s : State) (nbits w : Nat) (i : Instr), decodeTableWord nbits w = some i →
    step (s.withFetchWord nbits w) = exec i { s with phase := .idle }

/-- 20_memory.md R51: the environment's steps, between operations or during a held read, change what is pending in `rx` and
nothing else (log entry 6: the model's queue of inputs). With nothing to take, the machine waits. -/
def Obligations.EnvironmentMovesOnlyTheStream : Prop :=
  ∀ (s : State) (later : List Input),
    (s.phase = .idle ∨ (s.phase = .rxRead ∧ ∃ k, readCount s.work = some k ∧ s.rx.length < k)) →
    (∀ bytes, s.inputs = .arrive bytes :: later → step s = .next { s with rx := s.rx ++ bytes, inputs := later }) ∧
    (∀ bytes, s.inputs = .rxBecomes bytes :: later → step s = .next { s with rx := bytes, inputs := later }) ∧
    (s.inputs = [] → step s = .next s)

/-- 70_reset_and_hazards.md R140, R144: while a read is held, a second call is refused, and so is a reset (log entries 6 and 13:
the model's queue of inputs, and what lies between two steps; log entry 17: what a second call can meet). -/
def Obligations.HeldOperationIsNotCutShort : Prop :=
  ∀ (s : State) (k : Nat) (later : List Input), s.phase = .rxRead → readCount s.work = some k → s.rx.length < k →
    (∀ c, s.inputs = .call c :: later → step s = .refused .reentrantCall) ∧
    (s.inputs = .reset :: later → step s = .refused .operationCutShort)

/-- 70_reset_and_hazards.md R140: a reset between operations is equivalent to creation: every value that 10_state.md R36 gives is as
creation leaves it, whatever it was, the configuration is kept, and no event is emitted, so that a receive that follows is
refused until a prepareReceive. That `rx` and `wake` stay as they are is the model's choice (log entry 11), as are the values of
the working registers (log entry 8) and the queue of inputs (log entry 6). -/
def Obligations.ResetBetweenOperationsIsCreation : Prop :=
  ∀ (s : State) (later : List Input), s.phase = .idle → s.inputs = .reset :: later →
    ∃ t, step s = .next t ∧
      t.cfg = s.cfg ∧ t.params = s.params ∧ t.phase = .idle ∧ t.tp = .closed ∧ t.tx = [] ∧ t.line = .high ∧ t.hist = [] ∧
      t = { State.create s.cfg s.params with rx := s.rx, wake := s.wake, inputs := later, draws := s.draws } ∧
      ∀ r : Instr, IsReceive r → r.WellFormed → exec r t = .refused .transportNotListening

/-- The invariant holds just after reset. -/
def Obligations.ResetMeetsTheInvariant : Prop := Inv State.reset

/-- Every step from a state that meets the invariant leads to one that meets it: `tx`, `tp`, `line` and `wake` are what the event
history says, the line is released, `BAUD` is positive, every `Cfg` is at `BAUD`, data stand only with `Ok`, the buffer is in its
canonical form and the sequencer stands in `IDLE` or holds a read (10_state.md R32 to R34, 00_scope.md R5, 43_synch_break.md
R117, 42_decoder.md R110). -/
def Obligations.EveryStepKeepsTheInvariant : Prop :=
  ∀ s t : State, Inv s → step s = .next t → Inv t

/-- From a state that meets the invariant no step faults: the fault names only states that no run reaches. -/
def Obligations.InvariantRulesOutFaults : Prop :=
  ∀ (s : State) (f : Fault), Inv s → step s ≠ .fault f

/-- 10_state.md R24: "No operation writes any field of `cfg`", and no step does. -/
def Obligations.ConfigurationNeverChanges : Prop :=
  (∀ (i : Instr) (s t : State), exec i s = .next t → t.cfg = s.cfg) ∧
  ∀ s t : State, step s = .next t → t.cfg = s.cfg ∧ t.params = s.params

/-- 10_state.md R34, 20_memory.md R40: every step only appends to the event history, and to `tx` exactly the bytes of the `Wr`
events it appended; but a reset, which is a creation, begins both anew (70_reset_and_hazards.md R140, 10_state.md R36; log entries
6 and 11). -/
def Obligations.HistoryIsOnlyAppendedTo : Prop :=
  ∀ s t : State, step s = .next t →
    ((∀ later, s.inputs ≠ .reset :: later) →
      ∃ new : List Event, t.hist = s.hist ++ new ∧ t.tx = s.tx ++ writtenBytes new) ∧
    (s.phase = .idle → ∀ later, s.inputs = .reset :: later → t.hist = [] ∧ t.tx = [])

/-- 10_state.md R37 (the spec's own inference): two states that differ only in the working registers while `phase = IDLE` run alike, for any number of
steps. -/
def Obligations.WorkingStateIsInvisible : Prop :=
  ∀ (s t : State) (k : Nat), s.phase = .idle → SameButWork s t → s.work.rxbuf.wf = true → t.work.rxbuf.wf = true →
    OutcomesSameButWork (Host.Core.run core k s) (Host.Core.run core k t)

/-- 10_state.md R31: "the next operation's status replaces it, and no rule depends on an earlier status". -/
def Obligations.EarlierStatusIsNotRead : Prop :=
  ∀ (i : Instr) (s t : State) (status : Status) (rdata : Option (List Byte)), exec i s = .next t → t.phase = .idle →
    exec i { s with status := status, rdata := rdata } = .next t

/-- 20_memory.md R49: every send leaves the transport closed, prepareReceive leaves it open at `BAUD`, and a receive leaves it
as it found it and is refused on a closed one. -/
def Obligations.OpenCloseDiscipline : Prop :=
  ∀ (i : Instr) (s : State),
    (∀ t, exec i s = .next t →
      (IsSend i → t.tp = .closed) ∧
      (i = .prepareReceive → t.tp = .openAt s.cfg.baud) ∧
      (IsReceive i → t.tp = s.tp ∧ t.tp ≠ .closed ∧
        ∃ new : List Event, t.hist = s.hist ++ new ∧ Event.close ∉ new ∧ ∀ b, Event.cfg b ∉ new)) ∧
    (IsReceive i → s.phase = .idle → i.len ≤ 255 → s.tp = .closed → exec i s = .refused .transportNotListening)

/-- 00_scope.md R14, 20_memory.md R40: what `MemWrite` stores is what `MemRead` returns, every other byte of the buffer reads
as before, and the canonical form is kept. -/
def Obligations.BufferReadsBackWhatWasWritten : Prop :=
  ∀ (m : Memory) (a : Nat) (bytes : List Byte), m.wf = true → a + bytes.length ≤ 258 →
    memRead (memWrite m a bytes) a bytes.length = bytes ∧
    (∀ x, x < a ∨ a + bytes.length ≤ x → (memWrite m a bytes).read x = m.read x) ∧
    (memWrite m a bytes).wf = true

/-- 70_reset_and_hazards.md R141: at the end of the process, between operations or while a read is held, "Nothing is flushed and no
event is emitted": the transport and everything else stay as they are. Nothing more is taken, and a read that was held never
returns (log entry 11; log entry 6: the model's queue of inputs). -/
def Obligations.EndOfProcessEmitsNothing : Prop :=
  ∀ (s : State) (later : List Input),
    (s.phase = .idle ∨ (s.phase = .rxRead ∧ ∃ k, readCount s.work = some k ∧ s.rx.length < k)) →
    s.inputs = .destroy :: later →
    ∃ t, step s = .next t ∧
      t.hist = s.hist ∧ t.tp = s.tp ∧ t.rx = s.rx ∧ t.tx = s.tx ∧ t.line = s.line ∧ t.wake = s.wake ∧ t.phase = s.phase ∧
      ∀ k, Host.Core.run core k t = .next t

/-- 60_exceptions.md R138: the observable outcome of a run is the results in order, the final `(tp, rx, tx, line, wake)` and the
history; a run that is refused has none, and one that is not over, a read being held or a call still to be taken, has none yet
(log entry 6: the model's queue of inputs; log entry 13: what lies between two steps). That a run may cross a reset, keeping its
results, and that one cut short between operations by the end of the process has an outcome, are the model's choice (log entry 23). -/
def Obligations.RunOutcomeIsTheResultsAndTheFinalState : Prop :=
  (∀ (k : Nat) (s : State) (o : RunOutcome), runOutcome k s = some o →
    ∃ t, Host.Core.run core k s = .next t ∧ t.phase = .idle ∧ (∀ c, Input.call c ∉ t.inputs) ∧
      o.tp = t.tp ∧ o.rx = t.rx ∧ o.tx = t.tx ∧ o.line = t.line ∧ o.wake = t.wake ∧ o.hist = t.hist) ∧
  (∀ (k : Nat) (s t : State), Host.Core.run core k s = .next t → t.phase = .idle → (∀ c, Input.call c ∉ t.inputs) →
    ∃ o, runOutcome k s = some o) ∧
  (∀ (k : Nat) (s : State) (r : Refusal), Host.Core.run core k s = .refused r → runOutcome k s = none) ∧
  (∀ (s : State) (o : RunOutcome), runOutcome 0 s = some o → o.results = []) ∧
  ∀ (k : Nat) (s t : State) (o : RunOutcome), step s = .next t → runOutcome k t = some o →
    ∃ o', runOutcome (k + 1) s = some o' ∧
      (t.phase = .idle → (s.phase = .rxRead ∨ ∃ c later, s.inputs = .call c :: later) →
        o'.results = (t.status, t.rdata) :: o.results) ∧
      (t.phase ≠ .idle ∨ (s.phase ≠ .rxRead ∧ ∀ c later, s.inputs ≠ .call c :: later) → o'.results = o.results)

/-- 60_exceptions.md R129, R138: "an operation produces one status, at its end": a run with an outcome has one result for each call
it took, and one for the read that was held at its start, if one was (log entry 6: the model's queue of inputs). That this
counts the results from before a reset too is the model's choice (log entry 23). The end of the process, which drops the calls
behind it, is left to `EndOfProcessEmitsNothing`. -/
def Obligations.OneResultPerOperation : Prop :=
  ∀ (k : Nat) (s : State) (o : RunOutcome), s.phase = .idle ∨ s.phase = .rxRead → Input.destroy ∉ s.inputs →
    runOutcome k s = some o →
    o.results.length = (s.inputs.filter Input.isCall).length + (if s.phase = .rxRead then 1 else 0)
end

