-- ==== Sys2Proof/Laws/Decode.lean ====
section
/-! SUPPORT. The fields of an encoded header, and what decoding answers. -/

namespace Sys2Proof

/-- Well-formedness is the domain of the length operand. -/
theorem Instr.wellFormed_iff (i : Instr) : i.WellFormed ↔ i.len ≤ 255 := decide_eq_true_iff

theorem Op.ofCode_code (op : Op) : Op.ofCode op.code = some op := by cases op <;> rfl

theorem Op.code_of_ofCode {c : BitVec 3} {op : Op} (h : Op.ofCode c = some op) : op.code = c := by
  revert op c; decide

theorem Op.ofCode_eq_none (c : BitVec 3) : Op.ofCode c = none ↔ c = 0b111#3 := by
  revert c; decide

theorem headerWord_toNat (op : Op) (id : Byte) (len : Nat) :
    (headerWord op id len).toNat = op.code.toNat * 65536 + id.toNat * 256 + len % 256 := by
  have h1 := id.isLt
  have h2 : len % 256 < 256 := Nat.mod_lt _ (by decide)
  simp only [headerWord, BitVec.toNat_append, BitVec.toNat_ofNat]
  rw [← Nat.shiftLeft_add_eq_or_of_lt (by simpa using h2), ← Nat.shiftLeft_add_eq_or_of_lt (by simpa using h1)]
  simp only [Nat.shiftLeft_eq]
  omega

@[simp] theorem opField_headerWord (op : Op) (id : Byte) (len : Nat) (data : List Byte) :
    (Command.mk (headerWord op id len) data).opField = op.code := by
  apply BitVec.eq_of_toNat_eq
  have h0 := op.code.isLt
  have h1 := id.isLt
  have h2 : len % 256 < 256 := Nat.mod_lt _ (by decide)
  simp only [Command.opField, BitVec.extractLsb'_toNat, headerWord_toNat, Nat.shiftRight_eq_div_pow]
  omega

@[simp] theorem idField_headerWord (op : Op) (id : Byte) (len : Nat) (data : List Byte) :
    (Command.mk (headerWord op id len) data).idField = id := by
  apply BitVec.eq_of_toNat_eq
  have h0 := op.code.isLt
  have h1 := id.isLt
  have h2 : len % 256 < 256 := Nat.mod_lt _ (by decide)
  simp only [Command.idField, BitVec.extractLsb'_toNat, headerWord_toNat, Nat.shiftRight_eq_div_pow]
  omega

@[simp] theorem lenField_headerWord (op : Op) (id : Byte) (len : Nat) (data : List Byte) :
    (Command.mk (headerWord op id len) data).lenField = BitVec.ofNat 8 len := by
  apply BitVec.eq_of_toNat_eq
  have h0 := op.code.isLt
  have h1 := id.isLt
  have h2 : len % 256 < 256 := Nat.mod_lt _ (by decide)
  simp only [Command.lenField, BitVec.extractLsb'_toNat, headerWord_toNat, Nat.shiftRight_eq_div_pow, BitVec.toNat_ofNat]
  omega

/-- Where the data are `len` bytes, the operation is made of them. -/
theorem withData_eq_instr {c : Command} {make : List Byte → Instr} {i : Instr} :
    c.withData make = .instr i ↔ c.data.length = c.lenField.toNat ∧ make c.data = i := by
  by_cases h : c.data.length = c.lenField.toNat <;> simp [Command.withData, h]

end Sys2Proof
end

