-- ==== Sys2Proof/Laws/Memory.lean ====
section
/-! SUPPORT. The receive frame buffer: read after write, frames, and the canonical form. -/

namespace Sys2Proof.Machine

/-! ## One byte -/

theorem lookupCell_eq_zero_of_lt {lo : Nat} {cells : List Host.Cell} (h : cellsWf lo cells = true) {x : Nat} (hx : x < lo) :
    lookupCell cells x = 0#8 := by
  induction cells generalizing lo with
  | nil => rfl
  | cons c rest ih =>
    obtain ⟨a, v⟩ := c
    simp only [cellsWf, Bool.and_eq_true, decide_eq_true_eq] at h
    have hne : a ≠ x := by omega
    simp only [lookupCell, hne, if_false]
    exact ih h.2 (by omega)

theorem cellsWf_mono {lo lo' : Nat} {cells : List Host.Cell} (h : cellsWf lo cells = true) (hle : lo' ≤ lo) :
    cellsWf lo' cells = true := by
  cases cells with
  | nil => rfl
  | cons c rest =>
    obtain ⟨a, v⟩ := c
    simp only [cellsWf, Bool.and_eq_true, decide_eq_true_eq] at h ⊢
    exact ⟨⟨⟨by omega, h.1.1.2⟩, h.1.2⟩, h.2⟩

/-- Storing a byte keeps the canonical form. -/
theorem cellsWf_storeCell {lo : Nat} {cells : List Host.Cell} (h : cellsWf lo cells = true) {x : Nat} (hlo : lo ≤ x)
    (hx : x < bufferSize) (v : Byte) : cellsWf lo (storeCell cells x v) = true := by
  induction cells generalizing lo with
  | nil => by_cases hv : v = 0#8 <;> simp [storeCell, hv, cellsWf, hlo, hx]
  | cons c rest ih =>
    obtain ⟨a, w⟩ := c
    have h' := h
    simp only [cellsWf, Bool.and_eq_true, decide_eq_true_eq] at h'
    obtain ⟨⟨⟨h1, h2⟩, h3⟩, h4⟩ := h'
    by_cases hxa : x < a
    · by_cases hv : v = 0#8
      · simpa [storeCell, hxa, hv] using h
      · simp [storeCell, hxa, hv, cellsWf, hlo, hx, h2, h3, h4]
    · by_cases hxe : x = a
      · by_cases hv : v = 0#8
        · simpa [storeCell, hxe, hv] using cellsWf_mono h4 (by omega)
        · simp [storeCell, hxe, hv, cellsWf, h1, h2, h4]
      · have := ih h4 (by omega)
        simp [storeCell, hxa, hxe, cellsWf, h1, h2, h3, this]

/-- The byte just stored is the one read. -/
theorem lookupCell_storeCell_same {lo : Nat} {cells : List Host.Cell} (h : cellsWf lo cells = true) (x : Nat) (v : Byte) :
    lookupCell (storeCell cells x v) x = v := by
  induction cells generalizing lo with
  | nil => by_cases hv : v = 0#8 <;> simp [storeCell, hv, lookupCell]
  | cons c rest ih =>
    obtain ⟨a, w⟩ := c
    simp only [cellsWf, Bool.and_eq_true, decide_eq_true_eq] at h
    by_cases hxa : x < a
    · have hne : a ≠ x := by omega
      by_cases hv : v = 0#8
      · simp [storeCell, hxa, hv, lookupCell, hne, lookupCell_eq_zero_of_lt h.2 (x := x) (by omega)]
      · simp [storeCell, hxa, hv, lookupCell]
    · by_cases hxe : x = a
      · by_cases hv : v = 0#8
        · simp [storeCell, hxe, hv, lookupCell_eq_zero_of_lt h.2 (x := a) (by omega)]
        · simp [storeCell, hxe, hv, lookupCell]
      · have hne : a ≠ x := by omega
        simp [storeCell, hxa, hxe, lookupCell, hne, ih h.2]

/-- Every other byte reads as before. -/
theorem lookupCell_storeCell_other {lo : Nat} {cells : List Host.Cell} (h : cellsWf lo cells = true) {x y : Nat} (hne : y ≠ x)
    (v : Byte) : lookupCell (storeCell cells x v) y = lookupCell cells y := by
  induction cells generalizing lo with
  | nil => by_cases hv : v = 0#8 <;> simp [storeCell, hv, lookupCell, Ne.symm hne]
  | cons c rest ih =>
    obtain ⟨a, w⟩ := c
    simp only [cellsWf, Bool.and_eq_true, decide_eq_true_eq] at h
    by_cases hxa : x < a
    · by_cases hv : v = 0#8 <;> simp [storeCell, hxa, hv, lookupCell, Ne.symm hne]
    · by_cases hxe : x = a
      · by_cases hv : v = 0#8 <;> simp [storeCell, hxe, hv, lookupCell, show a ≠ y by omega]
      · simp [storeCell, hxa, hxe, lookupCell, ih h.2]

theorem Memory.wf_write {m : Memory} (h : m.wf = true) {x : Nat} (hx : x < bufferSize) (v : Byte) :
    (m.write x v).wf = true := cellsWf_storeCell h (Nat.zero_le x) hx v

theorem Memory.read_write_same {m : Memory} (h : m.wf = true) (x : Nat) (v : Byte) : (m.write x v).read x = v :=
  lookupCell_storeCell_same h x v

theorem Memory.read_write_other {m : Memory} (h : m.wf = true) {x y : Nat} (hne : y ≠ x) (v : Byte) :
    (m.write x v).read y = m.read y := lookupCell_storeCell_other h hne v

/-! ## A run of bytes -/

@[simp] theorem memRead_length (m : Memory) (a k : Nat) : (memRead m a k).length = k := by
  induction k generalizing a with
  | zero => rfl
  | succ k ih => simp [memRead, ih]

/-- `MemWrite` inside the buffer keeps the canonical form. -/
theorem memWrite_wf {m : Memory} (h : m.wf = true) {a : Nat} {vs : List Byte} (hb : a + vs.length ≤ bufferSize) :
    (memWrite m a vs).wf = true := by
  induction vs generalizing m a with
  | nil => exact h
  | cons v vs ih =>
    simp only [List.length_cons] at hb
    exact ih (Memory.wf_write h (by omega) v) (by omega)

/-- `MemWrite` leaves every byte outside its slice alone. -/
theorem memWrite_read_outside {m : Memory} (h : m.wf = true) {a : Nat} {vs : List Byte} (hb : a + vs.length ≤ bufferSize)
    {x : Nat} (hx : x < a ∨ a + vs.length ≤ x) : (memWrite m a vs).read x = m.read x := by
  induction vs generalizing m a with
  | nil => rfl
  | cons v vs ih =>
    simp only [List.length_cons] at hb hx
    have hw := Memory.wf_write h (x := a) (by omega) v
    rw [memWrite, ih hw (by omega) (by omega), Memory.read_write_other h (by omega)]

/-- A byte inside the slice that `MemWrite` wrote. -/
theorem memWrite_read_inside {m : Memory} (h : m.wf = true) {a : Nat} {vs : List Byte} (hb : a + vs.length ≤ bufferSize)
    {i : Nat} (hi : i < vs.length) : (memWrite m a vs).read (a + i) = vs[i] := by
  induction vs generalizing m a i with
  | nil => simp at hi
  | cons v vs ih =>
    simp only [List.length_cons] at hb hi
    have hw := Memory.wf_write h (x := a) (by omega) v
    cases i with
    | zero =>
      rw [memWrite, memWrite_read_outside hw (by omega) (by omega)]
      simpa using Memory.read_write_same h a v
    | succ i =>
      have := ih hw (a := a + 1) (by omega) (i := i) (by omega)
      rw [memWrite, show a + (i + 1) = a + 1 + i by omega, this]
      rfl

/-- `MemRead` of a slice of what `MemWrite` wrote is that slice of the bytes. -/
theorem memRead_memWrite {m : Memory} (h : m.wf = true) {vs : List Byte} (hb : vs.length ≤ bufferSize) {i k : Nat}
    (hik : i + k ≤ vs.length) : memRead (memWrite m 0 vs) i k = (vs.drop i).take k := by
  induction k generalizing i with
  | zero => simp [memRead]
  | succ k ih =>
    have h0 := memWrite_read_inside h (a := 0) (vs := vs) (by omega) (i := i) (by omega)
    rw [Nat.zero_add] at h0
    rw [memRead, h0, ih (by omega), ← List.getElem_cons_drop (by omega : i < vs.length), List.take_succ_cons]

end Sys2Proof.Machine
end

