-- ==== Sys2Proof/Laws/State.lean ====
section
/-! SUPPORT. One lemma per field of State and per update of it, each true by rfl, so that no proof unfolds a record update. -/

namespace Sys2Proof.Machine

variable (s : State)

/-! ## enter -/

@[simp] theorem enter_cfg (p : Phase) : (enter p s).cfg = s.cfg := rfl
@[simp] theorem enter_params (p : Phase) : (enter p s).params = s.params := rfl
@[simp] theorem enter_work (p : Phase) : (enter p s).work = s.work := rfl
@[simp] theorem enter_phase (p : Phase) : (enter p s).phase = p := rfl
@[simp] theorem enter_status (p : Phase) : (enter p s).status = s.status := rfl
@[simp] theorem enter_rdata (p : Phase) : (enter p s).rdata = s.rdata := rfl
@[simp] theorem enter_tp (p : Phase) : (enter p s).tp = s.tp := rfl
@[simp] theorem enter_rx (p : Phase) : (enter p s).rx = s.rx := rfl
@[simp] theorem enter_tx (p : Phase) : (enter p s).tx = s.tx := rfl
@[simp] theorem enter_line (p : Phase) : (enter p s).line = s.line := rfl
@[simp] theorem enter_wake (p : Phase) : (enter p s).wake = s.wake := rfl
@[simp] theorem enter_hist (p : Phase) : (enter p s).hist = s.hist := rfl
@[simp] theorem enter_inputs (p : Phase) : (enter p s).inputs = s.inputs := rfl
@[simp] theorem enter_draws (p : Phase) : (enter p s).draws = s.draws := rfl

/-! ## setIdx -/

@[simp] theorem setIdx_cfg (i : Nat) : (setIdx i s).cfg = s.cfg := rfl
@[simp] theorem setIdx_params (i : Nat) : (setIdx i s).params = s.params := rfl
@[simp] theorem setIdx_work (i : Nat) : (setIdx i s).work = { s.work with idx := BitVec.ofNat 9 i } := rfl
@[simp] theorem setIdx_phase (i : Nat) : (setIdx i s).phase = s.phase := rfl
@[simp] theorem setIdx_status (i : Nat) : (setIdx i s).status = s.status := rfl
@[simp] theorem setIdx_rdata (i : Nat) : (setIdx i s).rdata = s.rdata := rfl
@[simp] theorem setIdx_tp (i : Nat) : (setIdx i s).tp = s.tp := rfl
@[simp] theorem setIdx_rx (i : Nat) : (setIdx i s).rx = s.rx := rfl
@[simp] theorem setIdx_tx (i : Nat) : (setIdx i s).tx = s.tx := rfl
@[simp] theorem setIdx_line (i : Nat) : (setIdx i s).line = s.line := rfl
@[simp] theorem setIdx_wake (i : Nat) : (setIdx i s).wake = s.wake := rfl
@[simp] theorem setIdx_hist (i : Nat) : (setIdx i s).hist = s.hist := rfl
@[simp] theorem setIdx_inputs (i : Nat) : (setIdx i s).inputs = s.inputs := rfl
@[simp] theorem setIdx_draws (i : Nat) : (setIdx i s).draws = s.draws := rfl

/-! ## accClr -/

@[simp] theorem accClr_cfg : (accClr s).cfg = s.cfg := rfl
@[simp] theorem accClr_params : (accClr s).params = s.params := rfl
@[simp] theorem accClr_work : (accClr s).work = { s.work with acc := 0#8 } := rfl
@[simp] theorem accClr_phase : (accClr s).phase = s.phase := rfl
@[simp] theorem accClr_status : (accClr s).status = s.status := rfl
@[simp] theorem accClr_rdata : (accClr s).rdata = s.rdata := rfl
@[simp] theorem accClr_tp : (accClr s).tp = s.tp := rfl
@[simp] theorem accClr_rx : (accClr s).rx = s.rx := rfl
@[simp] theorem accClr_tx : (accClr s).tx = s.tx := rfl
@[simp] theorem accClr_line : (accClr s).line = s.line := rfl
@[simp] theorem accClr_wake : (accClr s).wake = s.wake := rfl
@[simp] theorem accClr_hist : (accClr s).hist = s.hist := rfl
@[simp] theorem accClr_inputs : (accClr s).inputs = s.inputs := rfl
@[simp] theorem accClr_draws : (accClr s).draws = s.draws := rfl

/-! ## accAdd -/

@[simp] theorem accAdd_cfg (b : Byte) : (accAdd b s).cfg = s.cfg := rfl
@[simp] theorem accAdd_params (b : Byte) : (accAdd b s).params = s.params := rfl
@[simp] theorem accAdd_work (b : Byte) : (accAdd b s).work = { s.work with acc := s.work.acc + b } := rfl
@[simp] theorem accAdd_phase (b : Byte) : (accAdd b s).phase = s.phase := rfl
@[simp] theorem accAdd_status (b : Byte) : (accAdd b s).status = s.status := rfl
@[simp] theorem accAdd_rdata (b : Byte) : (accAdd b s).rdata = s.rdata := rfl
@[simp] theorem accAdd_tp (b : Byte) : (accAdd b s).tp = s.tp := rfl
@[simp] theorem accAdd_rx (b : Byte) : (accAdd b s).rx = s.rx := rfl
@[simp] theorem accAdd_tx (b : Byte) : (accAdd b s).tx = s.tx := rfl
@[simp] theorem accAdd_line (b : Byte) : (accAdd b s).line = s.line := rfl
@[simp] theorem accAdd_wake (b : Byte) : (accAdd b s).wake = s.wake := rfl
@[simp] theorem accAdd_hist (b : Byte) : (accAdd b s).hist = s.hist := rfl
@[simp] theorem accAdd_inputs (b : Byte) : (accAdd b s).inputs = s.inputs := rfl
@[simp] theorem accAdd_draws (b : Byte) : (accAdd b s).draws = s.draws := rfl

/-! ## emitCfg -/

@[simp] theorem emitCfg_cfg : (emitCfg s).cfg = s.cfg := rfl
@[simp] theorem emitCfg_params : (emitCfg s).params = s.params := rfl
@[simp] theorem emitCfg_work : (emitCfg s).work = s.work := rfl
@[simp] theorem emitCfg_phase : (emitCfg s).phase = s.phase := rfl
@[simp] theorem emitCfg_status : (emitCfg s).status = s.status := rfl
@[simp] theorem emitCfg_rdata : (emitCfg s).rdata = s.rdata := rfl
@[simp] theorem emitCfg_tp : (emitCfg s).tp = .openAt s.cfg.baud := rfl
@[simp] theorem emitCfg_rx : (emitCfg s).rx = s.draws.nextPending := rfl
@[simp] theorem emitCfg_tx : (emitCfg s).tx = s.tx := rfl
@[simp] theorem emitCfg_line : (emitCfg s).line = s.line := rfl
@[simp] theorem emitCfg_wake : (emitCfg s).wake = s.wake := rfl
@[simp] theorem emitCfg_hist : (emitCfg s).hist = s.hist ++ [.cfg s.cfg.baud] := rfl
@[simp] theorem emitCfg_inputs : (emitCfg s).inputs = s.inputs := rfl
@[simp] theorem emitCfg_draws : (emitCfg s).draws = s.draws.popPending := rfl

/-! ## emitClose -/

@[simp] theorem emitClose_cfg : (emitClose s).cfg = s.cfg := rfl
@[simp] theorem emitClose_params : (emitClose s).params = s.params := rfl
@[simp] theorem emitClose_work : (emitClose s).work = s.work := rfl
@[simp] theorem emitClose_phase : (emitClose s).phase = s.phase := rfl
@[simp] theorem emitClose_status : (emitClose s).status = s.status := rfl
@[simp] theorem emitClose_rdata : (emitClose s).rdata = s.rdata := rfl
@[simp] theorem emitClose_tp : (emitClose s).tp = .closed := rfl
@[simp] theorem emitClose_rx : (emitClose s).rx = s.draws.nextPending := rfl
@[simp] theorem emitClose_tx : (emitClose s).tx = s.tx := rfl
@[simp] theorem emitClose_line : (emitClose s).line = s.line := rfl
@[simp] theorem emitClose_wake : (emitClose s).wake = s.wake := rfl
@[simp] theorem emitClose_hist : (emitClose s).hist = s.hist ++ [.close] := rfl
@[simp] theorem emitClose_inputs : (emitClose s).inputs = s.inputs := rfl
@[simp] theorem emitClose_draws : (emitClose s).draws = s.draws.popPending := rfl

/-! ## emitWr -/

@[simp] theorem emitWr_cfg (v : Byte) : (emitWr v s).1.cfg = s.cfg := rfl
@[simp] theorem emitWr_params (v : Byte) : (emitWr v s).1.params = s.params := rfl
@[simp] theorem emitWr_work (v : Byte) : (emitWr v s).1.work = s.work := rfl
@[simp] theorem emitWr_phase (v : Byte) : (emitWr v s).1.phase = s.phase := rfl
@[simp] theorem emitWr_status (v : Byte) : (emitWr v s).1.status = s.status := rfl
@[simp] theorem emitWr_rdata (v : Byte) : (emitWr v s).1.rdata = s.rdata := rfl
@[simp] theorem emitWr_tp (v : Byte) : (emitWr v s).1.tp = s.tp := rfl
@[simp] theorem emitWr_rx (v : Byte) : (emitWr v s).1.rx = s.rx := rfl
@[simp] theorem emitWr_tx (v : Byte) : (emitWr v s).1.tx = s.tx ++ [v] := rfl
@[simp] theorem emitWr_line (v : Byte) : (emitWr v s).1.line = s.line := rfl
@[simp] theorem emitWr_wake (v : Byte) : (emitWr v s).1.wake = s.wake := rfl
@[simp] theorem emitWr_hist (v : Byte) : (emitWr v s).1.hist = s.hist ++ [.wr v s.draws.nextAck] := rfl
@[simp] theorem emitWr_inputs (v : Byte) : (emitWr v s).1.inputs = s.inputs := rfl
@[simp] theorem emitWr_draws (v : Byte) : (emitWr v s).1.draws = s.draws.popAcks 1 := rfl
@[simp] theorem emitWr_answer (v : Byte) : (emitWr v s).2 = s.draws.nextAck := rfl

/-! ## emitAvail -/

@[simp] theorem emitAvail_cfg : (emitAvail s).cfg = s.cfg := rfl
@[simp] theorem emitAvail_params : (emitAvail s).params = s.params := rfl
@[simp] theorem emitAvail_work : (emitAvail s).work = s.work := rfl
@[simp] theorem emitAvail_phase : (emitAvail s).phase = s.phase := rfl
@[simp] theorem emitAvail_status : (emitAvail s).status = s.status := rfl
@[simp] theorem emitAvail_rdata : (emitAvail s).rdata = s.rdata := rfl
@[simp] theorem emitAvail_tp : (emitAvail s).tp = s.tp := rfl
@[simp] theorem emitAvail_rx : (emitAvail s).rx = s.rx := rfl
@[simp] theorem emitAvail_tx : (emitAvail s).tx = s.tx := rfl
@[simp] theorem emitAvail_line : (emitAvail s).line = s.line := rfl
@[simp] theorem emitAvail_wake : (emitAvail s).wake = s.wake := rfl
@[simp] theorem emitAvail_hist : (emitAvail s).hist = s.hist ++ [.avail (!s.rx.isEmpty)] := rfl
@[simp] theorem emitAvail_inputs : (emitAvail s).inputs = s.inputs := rfl
@[simp] theorem emitAvail_draws : (emitAvail s).draws = s.draws := rfl

/-! ## awaitRead -/

@[simp] theorem awaitRead_cfg : (awaitRead s).cfg = s.cfg := rfl
@[simp] theorem awaitRead_params : (awaitRead s).params = s.params := rfl
@[simp] theorem awaitRead_work : (awaitRead s).work = s.work := rfl
@[simp] theorem awaitRead_phase : (awaitRead s).phase = s.phase := rfl
@[simp] theorem awaitRead_status : (awaitRead s).status = s.status := rfl
@[simp] theorem awaitRead_rdata : (awaitRead s).rdata = s.rdata := rfl
@[simp] theorem awaitRead_tp : (awaitRead s).tp = s.tp := rfl
@[simp] theorem awaitRead_rx : (awaitRead s).rx = s.draws.rxAtRead s.rx := rfl
@[simp] theorem awaitRead_tx : (awaitRead s).tx = s.tx := rfl
@[simp] theorem awaitRead_line : (awaitRead s).line = s.line := rfl
@[simp] theorem awaitRead_wake : (awaitRead s).wake = s.wake := rfl
@[simp] theorem awaitRead_hist : (awaitRead s).hist = s.hist := rfl
@[simp] theorem awaitRead_inputs : (awaitRead s).inputs = s.inputs := rfl
@[simp] theorem awaitRead_draws : (awaitRead s).draws = s.draws.popRead := rfl

/-! ## emitRdBytes -/

@[simp] theorem emitRdBytes_cfg (k : Nat) : (emitRdBytes k s).cfg = s.cfg := rfl
@[simp] theorem emitRdBytes_params (k : Nat) : (emitRdBytes k s).params = s.params := rfl
@[simp] theorem emitRdBytes_work (k : Nat) : (emitRdBytes k s).work = s.work := rfl
@[simp] theorem emitRdBytes_phase (k : Nat) : (emitRdBytes k s).phase = s.phase := rfl
@[simp] theorem emitRdBytes_status (k : Nat) : (emitRdBytes k s).status = s.status := rfl
@[simp] theorem emitRdBytes_rdata (k : Nat) : (emitRdBytes k s).rdata = s.rdata := rfl
@[simp] theorem emitRdBytes_tp (k : Nat) : (emitRdBytes k s).tp = s.tp := rfl
@[simp] theorem emitRdBytes_rx (k : Nat) : (emitRdBytes k s).rx = s.rx.drop k := rfl
@[simp] theorem emitRdBytes_tx (k : Nat) : (emitRdBytes k s).tx = s.tx := rfl
@[simp] theorem emitRdBytes_line (k : Nat) : (emitRdBytes k s).line = s.line := rfl
@[simp] theorem emitRdBytes_wake (k : Nat) : (emitRdBytes k s).wake = s.wake := rfl
@[simp] theorem emitRdBytes_hist (k : Nat) : (emitRdBytes k s).hist = s.hist ++ [.rd k (.bytes (s.rx.take k))] := rfl
@[simp] theorem emitRdBytes_inputs (k : Nat) : (emitRdBytes k s).inputs = s.inputs := rfl
@[simp] theorem emitRdBytes_draws (k : Nat) : (emitRdBytes k s).draws = s.draws := rfl

/-! ## emitRdTimeout -/

@[simp] theorem emitRdTimeout_cfg (k j : Nat) : (emitRdTimeout k j s).cfg = s.cfg := rfl
@[simp] theorem emitRdTimeout_params (k j : Nat) : (emitRdTimeout k j s).params = s.params := rfl
@[simp] theorem emitRdTimeout_work (k j : Nat) : (emitRdTimeout k j s).work = s.work := rfl
@[simp] theorem emitRdTimeout_phase (k j : Nat) : (emitRdTimeout k j s).phase = s.phase := rfl
@[simp] theorem emitRdTimeout_status (k j : Nat) : (emitRdTimeout k j s).status = s.status := rfl
@[simp] theorem emitRdTimeout_rdata (k j : Nat) : (emitRdTimeout k j s).rdata = s.rdata := rfl
@[simp] theorem emitRdTimeout_tp (k j : Nat) : (emitRdTimeout k j s).tp = s.tp := rfl
@[simp] theorem emitRdTimeout_rx (k j : Nat) : (emitRdTimeout k j s).rx = s.rx.drop j := rfl
@[simp] theorem emitRdTimeout_tx (k j : Nat) : (emitRdTimeout k j s).tx = s.tx := rfl
@[simp] theorem emitRdTimeout_line (k j : Nat) : (emitRdTimeout k j s).line = s.line := rfl
@[simp] theorem emitRdTimeout_wake (k j : Nat) : (emitRdTimeout k j s).wake = s.wake := rfl
@[simp] theorem emitRdTimeout_hist (k j : Nat) : (emitRdTimeout k j s).hist = s.hist ++ [.rd k .timeout] := rfl
@[simp] theorem emitRdTimeout_inputs (k j : Nat) : (emitRdTimeout k j s).inputs = s.inputs := rfl
@[simp] theorem emitRdTimeout_draws (k j : Nat) : (emitRdTimeout k j s).draws = s.draws := rfl

/-! ## emitLine -/

@[simp] theorem emitLine_cfg (p : Pin) (l : Level) : (emitLine p l s).cfg = s.cfg := rfl
@[simp] theorem emitLine_params (p : Pin) (l : Level) : (emitLine p l s).params = s.params := rfl
@[simp] theorem emitLine_work (p : Pin) (l : Level) : (emitLine p l s).work = s.work := rfl
@[simp] theorem emitLine_phase (p : Pin) (l : Level) : (emitLine p l s).phase = s.phase := rfl
@[simp] theorem emitLine_status (p : Pin) (l : Level) : (emitLine p l s).status = s.status := rfl
@[simp] theorem emitLine_rdata (p : Pin) (l : Level) : (emitLine p l s).rdata = s.rdata := rfl
@[simp] theorem emitLine_tp (p : Pin) (l : Level) : (emitLine p l s).tp = s.tp := rfl
@[simp] theorem emitLine_rx (p : Pin) (l : Level) : (emitLine p l s).rx = s.rx := rfl
@[simp] theorem emitLine_tx (p : Pin) (l : Level) : (emitLine p l s).tx = s.tx := rfl
@[simp] theorem emitLine_line (p : Pin) (l : Level) : (emitLine p l s).line = if p = .tx then l else s.line := rfl
@[simp] theorem emitLine_wake (p : Pin) (l : Level) : (emitLine p l s).wake = if p = .wake then l else s.wake := rfl
@[simp] theorem emitLine_hist (p : Pin) (l : Level) : (emitLine p l s).hist = s.hist ++ [.line p l] := rfl
@[simp] theorem emitLine_inputs (p : Pin) (l : Level) : (emitLine p l s).inputs = s.inputs := rfl
@[simp] theorem emitLine_draws (p : Pin) (l : Level) : (emitLine p l s).draws = s.draws := rfl

/-! ## emitDelay -/

@[simp] theorem emitDelay_cfg (us : Nat) : (emitDelay us s).cfg = s.cfg := rfl
@[simp] theorem emitDelay_params (us : Nat) : (emitDelay us s).params = s.params := rfl
@[simp] theorem emitDelay_work (us : Nat) : (emitDelay us s).work = s.work := rfl
@[simp] theorem emitDelay_phase (us : Nat) : (emitDelay us s).phase = s.phase := rfl
@[simp] theorem emitDelay_status (us : Nat) : (emitDelay us s).status = s.status := rfl
@[simp] theorem emitDelay_rdata (us : Nat) : (emitDelay us s).rdata = s.rdata := rfl
@[simp] theorem emitDelay_tp (us : Nat) : (emitDelay us s).tp = s.tp := rfl
@[simp] theorem emitDelay_rx (us : Nat) : (emitDelay us s).rx = s.rx := rfl
@[simp] theorem emitDelay_tx (us : Nat) : (emitDelay us s).tx = s.tx := rfl
@[simp] theorem emitDelay_line (us : Nat) : (emitDelay us s).line = s.line := rfl
@[simp] theorem emitDelay_wake (us : Nat) : (emitDelay us s).wake = s.wake := rfl
@[simp] theorem emitDelay_hist (us : Nat) : (emitDelay us s).hist = s.hist ++ [.delay us] := rfl
@[simp] theorem emitDelay_inputs (us : Nat) : (emitDelay us s).inputs = s.inputs := rfl
@[simp] theorem emitDelay_draws (us : Nat) : (emitDelay us s).draws = s.draws := rfl

/-! ## finish -/

@[simp] theorem finish_cfg (st : Status) (rd : Option (List Byte)) : (finish st rd s).cfg = s.cfg := rfl
@[simp] theorem finish_params (st : Status) (rd : Option (List Byte)) : (finish st rd s).params = s.params := rfl
@[simp] theorem finish_work (st : Status) (rd : Option (List Byte)) : (finish st rd s).work = s.work := rfl
@[simp] theorem finish_phase (st : Status) (rd : Option (List Byte)) : (finish st rd s).phase = .idle := rfl
@[simp] theorem finish_status (st : Status) (rd : Option (List Byte)) : (finish st rd s).status = st := rfl
@[simp] theorem finish_rdata (st : Status) (rd : Option (List Byte)) : (finish st rd s).rdata = rd := rfl
@[simp] theorem finish_tp (st : Status) (rd : Option (List Byte)) : (finish st rd s).tp = s.tp := rfl
@[simp] theorem finish_rx (st : Status) (rd : Option (List Byte)) : (finish st rd s).rx = s.rx := rfl
@[simp] theorem finish_tx (st : Status) (rd : Option (List Byte)) : (finish st rd s).tx = s.tx := rfl
@[simp] theorem finish_line (st : Status) (rd : Option (List Byte)) : (finish st rd s).line = s.line := rfl
@[simp] theorem finish_wake (st : Status) (rd : Option (List Byte)) : (finish st rd s).wake = s.wake := rfl
@[simp] theorem finish_hist (st : Status) (rd : Option (List Byte)) : (finish st rd s).hist = s.hist := rfl
@[simp] theorem finish_inputs (st : Status) (rd : Option (List Byte)) : (finish st rd s).inputs = s.inputs := rfl
@[simp] theorem finish_draws (st : Status) (rd : Option (List Byte)) : (finish st rd s).draws = s.draws := rfl

/-! ## latchFrame -/

@[simp] theorem latchFrame_cfg (id : Byte) (data : List Byte) : (latchFrame id data s).cfg = s.cfg := rfl
@[simp] theorem latchFrame_params (id : Byte) (data : List Byte) : (latchFrame id data s).params = s.params := rfl
@[simp] theorem latchFrame_work (id : Byte) (data : List Byte) :
    (latchFrame id data s).work = { s.work with op := .sendFrame, id := id, len := BitVec.ofNat 8 data.length, data := data } := rfl
@[simp] theorem latchFrame_phase (id : Byte) (data : List Byte) : (latchFrame id data s).phase = s.phase := rfl
@[simp] theorem latchFrame_status (id : Byte) (data : List Byte) : (latchFrame id data s).status = s.status := rfl
@[simp] theorem latchFrame_rdata (id : Byte) (data : List Byte) : (latchFrame id data s).rdata = s.rdata := rfl
@[simp] theorem latchFrame_tp (id : Byte) (data : List Byte) : (latchFrame id data s).tp = s.tp := rfl
@[simp] theorem latchFrame_rx (id : Byte) (data : List Byte) : (latchFrame id data s).rx = s.rx := rfl
@[simp] theorem latchFrame_tx (id : Byte) (data : List Byte) : (latchFrame id data s).tx = s.tx := rfl
@[simp] theorem latchFrame_line (id : Byte) (data : List Byte) : (latchFrame id data s).line = s.line := rfl
@[simp] theorem latchFrame_wake (id : Byte) (data : List Byte) : (latchFrame id data s).wake = s.wake := rfl
@[simp] theorem latchFrame_hist (id : Byte) (data : List Byte) : (latchFrame id data s).hist = s.hist := rfl
@[simp] theorem latchFrame_inputs (id : Byte) (data : List Byte) : (latchFrame id data s).inputs = s.inputs := rfl
@[simp] theorem latchFrame_draws (id : Byte) (data : List Byte) : (latchFrame id data s).draws = s.draws := rfl

/-! ## latchHeader -/

@[simp] theorem latchHeader_cfg (id : Byte) : (latchHeader id s).cfg = s.cfg := rfl
@[simp] theorem latchHeader_params (id : Byte) : (latchHeader id s).params = s.params := rfl
@[simp] theorem latchHeader_work (id : Byte) : (latchHeader id s).work = { s.work with op := .sendHeader, id := id } := rfl
@[simp] theorem latchHeader_phase (id : Byte) : (latchHeader id s).phase = s.phase := rfl
@[simp] theorem latchHeader_status (id : Byte) : (latchHeader id s).status = s.status := rfl
@[simp] theorem latchHeader_rdata (id : Byte) : (latchHeader id s).rdata = s.rdata := rfl
@[simp] theorem latchHeader_tp (id : Byte) : (latchHeader id s).tp = s.tp := rfl
@[simp] theorem latchHeader_rx (id : Byte) : (latchHeader id s).rx = s.rx := rfl
@[simp] theorem latchHeader_tx (id : Byte) : (latchHeader id s).tx = s.tx := rfl
@[simp] theorem latchHeader_line (id : Byte) : (latchHeader id s).line = s.line := rfl
@[simp] theorem latchHeader_wake (id : Byte) : (latchHeader id s).wake = s.wake := rfl
@[simp] theorem latchHeader_hist (id : Byte) : (latchHeader id s).hist = s.hist := rfl
@[simp] theorem latchHeader_inputs (id : Byte) : (latchHeader id s).inputs = s.inputs := rfl
@[simp] theorem latchHeader_draws (id : Byte) : (latchHeader id s).draws = s.draws := rfl

/-! ## latchData -/

@[simp] theorem latchData_cfg (op : Op) (data : List Byte) : (latchData op data s).cfg = s.cfg := rfl
@[simp] theorem latchData_params (op : Op) (data : List Byte) : (latchData op data s).params = s.params := rfl
@[simp] theorem latchData_work (op : Op) (data : List Byte) :
    (latchData op data s).work = { s.work with op := op, len := BitVec.ofNat 8 data.length, data := data } := rfl
@[simp] theorem latchData_phase (op : Op) (data : List Byte) : (latchData op data s).phase = s.phase := rfl
@[simp] theorem latchData_status (op : Op) (data : List Byte) : (latchData op data s).status = s.status := rfl
@[simp] theorem latchData_rdata (op : Op) (data : List Byte) : (latchData op data s).rdata = s.rdata := rfl
@[simp] theorem latchData_tp (op : Op) (data : List Byte) : (latchData op data s).tp = s.tp := rfl
@[simp] theorem latchData_rx (op : Op) (data : List Byte) : (latchData op data s).rx = s.rx := rfl
@[simp] theorem latchData_tx (op : Op) (data : List Byte) : (latchData op data s).tx = s.tx := rfl
@[simp] theorem latchData_line (op : Op) (data : List Byte) : (latchData op data s).line = s.line := rfl
@[simp] theorem latchData_wake (op : Op) (data : List Byte) : (latchData op data s).wake = s.wake := rfl
@[simp] theorem latchData_hist (op : Op) (data : List Byte) : (latchData op data s).hist = s.hist := rfl
@[simp] theorem latchData_inputs (op : Op) (data : List Byte) : (latchData op data s).inputs = s.inputs := rfl
@[simp] theorem latchData_draws (op : Op) (data : List Byte) : (latchData op data s).draws = s.draws := rfl

/-! ## latchLen -/

@[simp] theorem latchLen_cfg (op : Op) (len : Nat) : (latchLen op len s).cfg = s.cfg := rfl
@[simp] theorem latchLen_params (op : Op) (len : Nat) : (latchLen op len s).params = s.params := rfl
@[simp] theorem latchLen_work (op : Op) (len : Nat) :
    (latchLen op len s).work = { s.work with op := op, len := BitVec.ofNat 8 len } := rfl
@[simp] theorem latchLen_phase (op : Op) (len : Nat) : (latchLen op len s).phase = s.phase := rfl
@[simp] theorem latchLen_status (op : Op) (len : Nat) : (latchLen op len s).status = s.status := rfl
@[simp] theorem latchLen_rdata (op : Op) (len : Nat) : (latchLen op len s).rdata = s.rdata := rfl
@[simp] theorem latchLen_tp (op : Op) (len : Nat) : (latchLen op len s).tp = s.tp := rfl
@[simp] theorem latchLen_rx (op : Op) (len : Nat) : (latchLen op len s).rx = s.rx := rfl
@[simp] theorem latchLen_tx (op : Op) (len : Nat) : (latchLen op len s).tx = s.tx := rfl
@[simp] theorem latchLen_line (op : Op) (len : Nat) : (latchLen op len s).line = s.line := rfl
@[simp] theorem latchLen_wake (op : Op) (len : Nat) : (latchLen op len s).wake = s.wake := rfl
@[simp] theorem latchLen_hist (op : Op) (len : Nat) : (latchLen op len s).hist = s.hist := rfl
@[simp] theorem latchLen_inputs (op : Op) (len : Nat) : (latchLen op len s).inputs = s.inputs := rfl
@[simp] theorem latchLen_draws (op : Op) (len : Nat) : (latchLen op len s).draws = s.draws := rfl

/-! ## latchNone -/

@[simp] theorem latchNone_cfg : (latchNone s).cfg = s.cfg := rfl
@[simp] theorem latchNone_params : (latchNone s).params = s.params := rfl
@[simp] theorem latchNone_work : (latchNone s).work = { s.work with op := .prepareReceive } := rfl
@[simp] theorem latchNone_phase : (latchNone s).phase = s.phase := rfl
@[simp] theorem latchNone_status : (latchNone s).status = s.status := rfl
@[simp] theorem latchNone_rdata : (latchNone s).rdata = s.rdata := rfl
@[simp] theorem latchNone_tp : (latchNone s).tp = s.tp := rfl
@[simp] theorem latchNone_rx : (latchNone s).rx = s.rx := rfl
@[simp] theorem latchNone_tx : (latchNone s).tx = s.tx := rfl
@[simp] theorem latchNone_line : (latchNone s).line = s.line := rfl
@[simp] theorem latchNone_wake : (latchNone s).wake = s.wake := rfl
@[simp] theorem latchNone_hist : (latchNone s).hist = s.hist := rfl
@[simp] theorem latchNone_inputs : (latchNone s).inputs = s.inputs := rfl
@[simp] theorem latchNone_draws : (latchNone s).draws = s.draws := rfl

/-! ## fillBuffer -/

@[simp] theorem fillBuffer_cfg (k : Nat) : (fillBuffer k s).cfg = s.cfg := rfl
@[simp] theorem fillBuffer_params (k : Nat) : (fillBuffer k s).params = s.params := rfl
@[simp] theorem fillBuffer_work (k : Nat) :
    (fillBuffer k s).work = { s.work with rxbuf := memWrite s.work.rxbuf 0 (s.rx.take k) } := rfl
@[simp] theorem fillBuffer_phase (k : Nat) : (fillBuffer k s).phase = s.phase := rfl
@[simp] theorem fillBuffer_status (k : Nat) : (fillBuffer k s).status = s.status := rfl
@[simp] theorem fillBuffer_rdata (k : Nat) : (fillBuffer k s).rdata = s.rdata := rfl
@[simp] theorem fillBuffer_tp (k : Nat) : (fillBuffer k s).tp = s.tp := rfl
@[simp] theorem fillBuffer_rx (k : Nat) : (fillBuffer k s).rx = s.rx.drop k := rfl
@[simp] theorem fillBuffer_tx (k : Nat) : (fillBuffer k s).tx = s.tx := rfl
@[simp] theorem fillBuffer_line (k : Nat) : (fillBuffer k s).line = s.line := rfl
@[simp] theorem fillBuffer_wake (k : Nat) : (fillBuffer k s).wake = s.wake := rfl
@[simp] theorem fillBuffer_hist (k : Nat) : (fillBuffer k s).hist = s.hist ++ [.rd k (.bytes (s.rx.take k))] := rfl
@[simp] theorem fillBuffer_inputs (k : Nat) : (fillBuffer k s).inputs = s.inputs := rfl
@[simp] theorem fillBuffer_draws (k : Nat) : (fillBuffer k s).draws = s.draws := rfl

/-! ## The two ends of an operation -/

@[simp] theorem returnOk_eq (rd : Option (List Byte)) : returnOk rd s = finish .ok rd s := rfl
@[simp] theorem raise_eq (st : Status) : raise st s = finish st none s := rfl

/-! ## resetEngine -/

@[simp] theorem resetEngine_cfg : (resetEngine s).cfg = s.cfg := rfl
@[simp] theorem resetEngine_params : (resetEngine s).params = s.params := rfl
@[simp] theorem resetEngine_work : (resetEngine s).work = Work.reset := rfl
@[simp] theorem resetEngine_phase : (resetEngine s).phase = .idle := rfl
@[simp] theorem resetEngine_status : (resetEngine s).status = .ok := rfl
@[simp] theorem resetEngine_rdata : (resetEngine s).rdata = none := rfl
@[simp] theorem resetEngine_tp : (resetEngine s).tp = .closed := rfl
@[simp] theorem resetEngine_rx : (resetEngine s).rx = s.rx := rfl
@[simp] theorem resetEngine_tx : (resetEngine s).tx = [] := rfl
@[simp] theorem resetEngine_line : (resetEngine s).line = .high := rfl
@[simp] theorem resetEngine_wake : (resetEngine s).wake = s.wake := rfl
@[simp] theorem resetEngine_hist : (resetEngine s).hist = [] := rfl
@[simp] theorem resetEngine_inputs : (resetEngine s).inputs = s.inputs := rfl
@[simp] theorem resetEngine_draws : (resetEngine s).draws = s.draws := rfl

/-! ## destroyEngine -/

@[simp] theorem destroyEngine_cfg : (destroyEngine s).cfg = s.cfg := rfl
@[simp] theorem destroyEngine_params : (destroyEngine s).params = s.params := rfl
@[simp] theorem destroyEngine_work : (destroyEngine s).work = s.work := rfl
@[simp] theorem destroyEngine_phase : (destroyEngine s).phase = s.phase := rfl
@[simp] theorem destroyEngine_status : (destroyEngine s).status = s.status := rfl
@[simp] theorem destroyEngine_rdata : (destroyEngine s).rdata = s.rdata := rfl
@[simp] theorem destroyEngine_tp : (destroyEngine s).tp = s.tp := rfl
@[simp] theorem destroyEngine_rx : (destroyEngine s).rx = s.rx := rfl
@[simp] theorem destroyEngine_tx : (destroyEngine s).tx = s.tx := rfl
@[simp] theorem destroyEngine_line : (destroyEngine s).line = s.line := rfl
@[simp] theorem destroyEngine_wake : (destroyEngine s).wake = s.wake := rfl
@[simp] theorem destroyEngine_hist : (destroyEngine s).hist = s.hist := rfl
@[simp] theorem destroyEngine_inputs : (destroyEngine s).inputs = [] := rfl
@[simp] theorem destroyEngine_draws : (destroyEngine s).draws = s.draws := rfl

end Sys2Proof.Machine
end

