-- ==== Sys2Proof/Laws/Ops.lean ====
section
/-! SUPPORT. For each shared operation, once, everything it does. -/

namespace Sys2Proof.Machine

/-! ## The transport's answers -/

@[simp] theorem Draws.popAcks_zero (d : Draws) : d.popAcks 0 = d := rfl

@[simp] theorem Draws.popAcks_popAcks (d : Draws) (m n : Nat) : (d.popAcks m).popAcks n = d.popAcks (m + n) := by
  simp [Draws.popAcks, List.drop_drop, Nat.add_assoc]

@[simp] theorem Draws.ackList_length (d : Draws) (n : Nat) : (d.ackList n).length = n := by
  induction n generalizing d with
  | zero => rfl
  | succ n ih => simp [Draws.ackList, ih]

theorem Draws.ackList_add (d : Draws) (m n : Nat) : d.ackList (m + n) = d.ackList m ++ (d.popAcks m).ackList n := by
  induction m generalizing d with
  | zero => simp [Draws.ackList]
  | succ m ih => rw [Nat.succ_add, Draws.ackList, ih, Draws.ackList, List.cons_append, Draws.popAcks_popAcks, Nat.add_comm 1 m]

/-- Answers of writes do not depend on what `Cfg` and `Close` drew. -/
@[simp] theorem Draws.nextAck_popPending (d : Draws) : d.popPending.nextAck = d.nextAck := rfl

@[simp] theorem Draws.popAcks_popPending (d : Draws) (n : Nat) : d.popPending.popAcks n = (d.popAcks n).popPending := rfl

@[simp] theorem Draws.ackList_popPending (d : Draws) (n : Nat) : d.popPending.ackList n = d.ackList n := by
  induction n generalizing d with
  | zero => rfl
  | succ n ih => simp [Draws.ackList, ih]

@[simp] theorem Draws.nextPending_popAcks (d : Draws) (n : Nat) : (d.popAcks n).nextPending = d.nextPending := rfl

@[simp] theorem Draws.nextPending_popPending_popAcks (d : Draws) (n : Nat) :
    (d.popAcks n).popPending.nextPending = d.popPending.nextPending := rfl

/-- Where the environment does nothing between the poll and the read, what was pending is pending. -/
theorem Draws.rxAtRead_nil {d : Draws} (h : d.reads = []) (rx : List Byte) : d.rxAtRead rx = rx := by
  simp [Draws.rxAtRead, h]

/-- Where it does something, that is pending. -/
theorem Draws.rxAtRead_cons {d : Draws} {r : List Byte} {rest : List (List Byte)} (h : d.reads = r :: rest) (rx : List Byte) :
    d.rxAtRead rx = r := by
  simp [Draws.rxAtRead, h]

@[simp] theorem Draws.reads_popRead (d : Draws) : d.popRead.reads = d.reads.drop 1 := rfl

@[simp] theorem Draws.reads_popAcks (d : Draws) (n : Nat) : (d.popAcks n).reads = d.reads := rfl

@[simp] theorem Draws.reads_popPending (d : Draws) : d.popPending.reads = d.reads := rfl

/-! ## The checksum accumulator -/

theorem accAddAll_eq (data : List Byte) (s : State) :
    accAddAll data s = { s with work := { s.work with acc := s.work.acc + byteSum data } } := by
  induction data generalizing s with
  | nil => simp [accAddAll, byteSum]
  | cons b bs ih => simp [accAddAll, ih, accAdd, byteSum, BitVec.add_assoc]

/-- Summing `n` bytes of the buffer from offset `j` adds the slice to `acc` and leaves `idx` at the last offset summed. -/
theorem addBuffer_eq (j n : Nat) (s : State) :
    addBuffer j n s =
      { s with work := { s.work with
          acc := s.work.acc + byteSum (memRead s.work.rxbuf j n)
          idx := if n = 0 then s.work.idx else BitVec.ofNat 9 (j + n - 1) } } := by
  induction n generalizing j s with
  | zero => simp [addBuffer, memRead, byteSum]
  | succ n ih =>
    rw [addBuffer, ih]
    simp only [accAdd, setIdx, memRead, byteSum, BitVec.add_assoc]
    rcases Nat.eq_zero_or_pos n with rfl | hn
    · simp
    · simp [Nat.pos_iff_ne_zero.mp hn, show j + 1 + n - 1 = j + (n + 1) - 1 by omega]

theorem byteSum_append (a b : List Byte) : byteSum (a ++ b) = byteSum a + byteSum b := by
  induction a with
  | nil => simp [byteSum]
  | cons x xs ih => simp [byteSum, ih, BitVec.add_assoc]

theorem byteSum_toNat (data : List Byte) : (byteSum data).toNat = (data.map BitVec.toNat).sum % 256 := by
  induction data with
  | nil => rfl
  | cons b bs ih => simp [byteSum, ih]

/-! ## Writing -/

/-- Everything `emitData` does: each byte is written and recorded with its answer, whatever the answers are. -/
theorem emitData_eq (i : Nat) (bs : List Byte) (s : State) :
    emitData i bs s =
      ({ s with
          tx := s.tx ++ bs
          hist := s.hist ++ List.zipWith Event.wr bs (s.draws.ackList bs.length)
          draws := s.draws.popAcks bs.length
          work := { s.work with idx := if bs = [] then s.work.idx else BitVec.ofNat 9 (i + bs.length - 1) } },
        (s.draws.ackList bs.length).all fun a => a) := by
  induction bs generalizing i s with
  | nil => simp [emitData, Draws.ackList]
  | cons b bs ih =>
    simp only [emitData, ih]
    simp only [emitWr, setIdx, Draws.popAcks_popAcks, Draws.ackList, List.length_cons, List.zipWith_cons_cons, List.all_cons,
      List.append_assoc, List.singleton_append, Nat.add_comm 1]
    rcases eq_or_ne bs [] with rfl | hne
    · simp
    · simp [hne, show i + 1 + bs.length - 1 = i + (bs.length + 1) - 1 by omega]

/-! ## The break and the wrap -/

/-- Everything a break does. -/
theorem synchBreak_eq (bits : Nat) (s : State) :
    synchBreak bits s =
      { s with
        line := .high
        hist := s.hist ++ [.line .tx .low, .delay (s.cfg.hold bits), .line .tx .high]
        work := { s.work with brkCnt := s.cfg.hold bits } } := by
  simp [synchBreak, emitLine, emitDelay]

/-- Everything `wake_before` does. -/
theorem wakeBefore_eq (s : State) :
    wakeBefore s =
      if s.params.wakeCtrl then
        { s with phase := .wake, wake := s.params.wakeActive,
                 hist := s.hist ++ [.line .wake s.params.wakeActive, .delay Config.wakeDelayUs] }
      else s := by
  cases h : s.params.wakeCtrl <;> simp [wakeBefore, h, emitLine, emitDelay, enter]

/-- Everything `sleep_after` does. -/
theorem sleepAfter_eq (s : State) :
    sleepAfter s =
      if s.params.wakeCtrl then
        { s with phase := .sleep, wake := opposite s.params.wakeActive,
                 hist := s.hist ++ [.line .wake (opposite s.params.wakeActive)] }
      else s := by
  cases h : s.params.wakeCtrl <;> simp [sleepAfter, h, emitLine, enter]

/-! ## Entry -/

/-- An operation starts exactly in `IDLE` with its length operand in its domain. -/
theorem entryRefusal_none (len : Nat) (s : State) : entryRefusal len s = none ↔ s.phase = .idle ∧ len ≤ 255 := by
  by_cases h : s.phase = .idle <;> by_cases h' : len ≤ 255 <;> simp [entryRefusal, Config.lenMax, h, h']

/-- What turns an operation away. -/
theorem entryRefusal_some (len : Nat) (s : State) (r : Refusal) :
    entryRefusal len s = some r ↔
      (s.phase ≠ .idle ∧ r = .reentrantCall) ∨ (s.phase = .idle ∧ 255 < len ∧ r = .operandOutOfDomain) := by
  by_cases h : s.phase = .idle <;> by_cases h' : len ≤ 255 <;> (simp [entryRefusal, Config.lenMax, h, h', eq_comm]; try omega)

end Sys2Proof.Machine
end

