-- ==== Sys2Proof/Laws/PerInstr.lean ====
section
/-! SUPPORT. Statements about every instruction as syntax, one lemma per constructor. -/

namespace Sys2Proof.Laws.EncodedOpField

/-- The command code of the encoded command is the one 30_encoding.md R70 gives the operation. -/
def Statement (i : Instr) : Prop := (encode i).opField = i.op.code

theorem sendFrame (id : Byte) (data : List Byte) : Statement (.sendFrame id data) := by simp [Statement, encode, Instr.op]
theorem sendHeader (id : Byte) : Statement (.sendHeader id) := by simp [Statement, encode, Instr.op]
theorem sendResponse (data : List Byte) : Statement (.sendResponse data) := by simp [Statement, encode, Instr.op]
theorem sendRaw (data : List Byte) : Statement (.sendRaw data) := by simp [Statement, encode, Instr.op]
theorem receiveFrame (len : Nat) : Statement (.receiveFrame len) := by simp [Statement, encode, Instr.op]
theorem receiveRaw (len : Nat) : Statement (.receiveRaw len) := by simp [Statement, encode, Instr.op]
theorem prepareReceive : Statement .prepareReceive := by simp [Statement, encode, Instr.op]

end Sys2Proof.Laws.EncodedOpField
end

