-- ==== Sys2Proof/Laws/Receive.lean ====
section
/-! SUPPORT. Everything a read, complete, timed out or held, can do. -/

namespace Sys2Proof.Machine

/-- `VERIFY(r)` over a sum is equality with the checksum. -/
theorem accVerify_byteSum (data : List Byte) (r : Byte) : accVerify (byteSum data) r = true ↔ r = cks data := by
  simp [accVerify, cks]

/-- Check (b): it verifies the slice `[2, n+2)` against the byte at `n + 2` and reports one of two statuses. -/
theorem checkChecksum_eq (s : State) :
    checkChecksum s =
      let n := s.work.len.toNat
      let data := memRead s.work.rxbuf 2 n
      let good := s.work.rxbuf.read (n + 2) = cks data
      { s with
        phase := .idle
        status := if good then .ok else .checksumMismatch
        rdata := if good then some data else none
        work := { s.work with acc := byteSum data, idx := BitVec.ofNat 9 (n + 2) } } := by
  have hv := accVerify_byteSum (memRead s.work.rxbuf 2 s.work.len.toNat) (s.work.rxbuf.read (s.work.len.toNat + 2))
  by_cases h : s.work.rxbuf.read (s.work.len.toNat + 2) = cks (memRead s.work.rxbuf 2 s.work.len.toNat)
  · simp [checkChecksum, addBuffer_eq, accClr, enter, setIdx, (accVerify_byteSum _ _).mpr rfl, h, finish]
  · simp [checkChecksum, addBuffer_eq, accClr, enter, setIdx, mt hv.mp h, h, finish]

/-- Check (b) when the byte at `n + 2` is the checksum of the slice. -/
theorem checkChecksum_good {s : State}
    (h : s.work.rxbuf.read (s.work.len.toNat + 2) = cks (memRead s.work.rxbuf 2 s.work.len.toNat)) :
    checkChecksum s =
      { s with
        phase := .idle
        status := .ok
        rdata := some (memRead s.work.rxbuf 2 s.work.len.toNat)
        work := { s.work with
          acc := byteSum (memRead s.work.rxbuf 2 s.work.len.toNat), idx := BitVec.ofNat 9 (s.work.len.toNat + 2) } } := by
  rw [checkChecksum_eq]
  simp only [h, if_true]

/-- Check (b) when it is not. -/
theorem checkChecksum_bad {s : State}
    (h : s.work.rxbuf.read (s.work.len.toNat + 2) ≠ cks (memRead s.work.rxbuf 2 s.work.len.toNat)) :
    checkChecksum s =
      { s with
        phase := .idle
        status := .checksumMismatch
        rdata := none
        work := { s.work with
          acc := byteSum (memRead s.work.rxbuf 2 s.work.len.toNat), idx := BitVec.ofNat 9 (s.work.len.toNat + 2) } } := by
  rw [checkChecksum_eq]
  simp only [h, if_false]

/-- A read that has its bytes completes. -/
theorem readOrHold_ready {k : Nat} {s : State} (h : k ≤ s.rx.length) : readOrHold k s = completeRead k (enter .rxRead s) :=
  if_pos h

/-- A read that is short of bytes is held. -/
theorem readOrHold_short {k : Nat} {s : State} (h : s.rx.length < k) : readOrHold k s = .next (enter .rxRead s) :=
  if_neg (show ¬ k ≤ s.rx.length by omega)

/-- A completed read of receiveRaw. -/
theorem completeRead_raw {k : Nat} {s : State} (hop : s.work.op = .receiveRaw) :
    completeRead k s =
      .next (finish .ok (some (memRead (memWrite s.work.rxbuf 0 (s.rx.take k)) 0 s.work.len.toNat)) (fillBuffer k s)) := by
  simp [completeRead, hop]

/-- A completed read of receiveFrame on an engine with an identifier. -/
theorem completeRead_frame {k : Nat} {s : State} (hop : s.work.op = .receiveFrame) {own : Byte}
    (hid : s.cfg.ownId = some own) :
    completeRead k s =
      .next (if (memWrite s.work.rxbuf 0 (s.rx.take k)).read 1 = own then checkChecksum (enter .rxChkId (fillBuffer k s))
        else finish .identifierMismatch none (enter .rxChkId (fillBuffer k s))) := by
  simp only [completeRead, hop, checkFrame, hid, fillBuffer_work, fillBuffer_cfg, enter_work, raise_eq]
  split <;> rfl

/-- What every completed read does, whatever it finds. -/
structure ReadDone (k : Nat) (s t : State) : Prop where
  cfg : t.cfg = s.cfg
  params : t.params = s.params
  tp : t.tp = s.tp
  tx : t.tx = s.tx
  line : t.line = s.line
  wake : t.wake = s.wake
  inputs : t.inputs = s.inputs
  draws : t.draws = s.draws
  phase : t.phase = .idle
  rx : t.rx = s.rx.drop k
  hist : t.hist = s.hist ++ [.rd k (.bytes (s.rx.take k))]
  rxbuf : t.work.rxbuf = memWrite s.work.rxbuf 0 (s.rx.take k)
  op : t.work.op = s.work.op
  id : t.work.id = s.work.id
  len : t.work.len = s.work.len
  data : t.work.data = s.work.data
  brkCnt : t.work.brkCnt = s.work.brkCnt
  result : t.rdata ≠ none → t.status = .ok

theorem completeRead_next {k : Nat} {s t : State} (h : completeRead k s = .next t) : ReadDone k s t := by
  cases hop : s.work.op
  case receiveFrame =>
    cases hid : s.cfg.ownId with
    | none => simp [completeRead, hop, checkFrame, hid] at h
    | some own =>
      rw [completeRead_frame hop hid] at h
      split at h <;> cases h
      · rw [checkChecksum_eq]
        constructor <;> simp [hop]
      · constructor <;> simp [hop]
  case receiveRaw =>
    rw [completeRead_raw hop] at h
    cases h
    constructor <;> simp [hop]
  all_goals simp [completeRead, hop] at h

/-- A completed read stops only for want of an identifier, or in a state that holds a read for no receive operation. -/
theorem completeRead_stops {k : Nat} {s : State} :
    (∀ f, completeRead k s = .fault f → readCount s.work = none) ∧
    (∀ r, completeRead k s = .refused r → r = .noIdentifierConfigured ∧ s.work.op = .receiveFrame ∧ s.cfg.ownId = none) := by
  cases hop : s.work.op
  case receiveFrame =>
    cases hid : s.cfg.ownId with
    | none => simp [completeRead, hop, checkFrame, hid]
    | some own => simp [completeRead_frame hop hid]
  all_goals simp [completeRead, hop, readCount]

/-- What a timed-out read does: a prefix of `rx` is gone, and nothing is validated (20_memory.md R53). -/
theorem timeoutRead_eq (k j : Nat) (s : State) :
    timeoutRead k j s =
      { s with phase := .idle, status := .transportTimeout, rdata := none, rx := s.rx.drop j,
               hist := s.hist ++ [.rd k .timeout] } := rfl

/-! ## The start of a receive operation -/

/-- Once the transport listens and a byte is pending, a receive is its read. -/
theorem startReceive_pending {k b : Nat} {s : State} (htp : s.tp = .openAt b) (hrx : s.rx ≠ []) :
    startReceive k s = readOrHold k (awaitRead (emitAvail (enter .rxPoll s))) := by
  simp [startReceive, htp, hrx]

/-- With nothing pending, `NoData` at once. -/
theorem startReceive_empty {k b : Nat} {s : State} (htp : s.tp = .openAt b) (hrx : s.rx = []) :
    startReceive k s = .next (finish .noData none (emitAvail (enter .rxPoll s))) := by
  simp [startReceive, htp, hrx]

/-- What a receive of `k` bytes whose latches stand in `s` has done, if it goes on. -/
inductive ReceiveDid (k : Nat) (s t : State) : Prop where
  /-- `NoData` at once. -/
  | nothing (hrx : s.rx = []) (ht : t = finish .noData none (emitAvail (enter .rxPoll s)))
  /-- The read is held. -/
  | held (hrx : s.rx ≠ []) (hk : (s.draws.rxAtRead s.rx).length < k)
      (ht : t = enter .rxRead (awaitRead (emitAvail (enter .rxPoll s))))
  /-- The read completed. -/
  | read (hrx : s.rx ≠ []) (hk : k ≤ (s.draws.rxAtRead s.rx).length)
      (ht : completeRead k (enter .rxRead (awaitRead (emitAvail (enter .rxPoll s)))) = .next t)

theorem startReceive_next {k : Nat} {s t : State} (h : startReceive k s = .next t) :
    s.tp ≠ .closed ∧ ReceiveDid k s t := by
  cases htp : s.tp with
  | closed => simp [startReceive, htp] at h
  | openAt b =>
    refine ⟨by simp, ?_⟩
    by_cases hrx : s.rx = []
    · rw [startReceive_empty htp hrx] at h
      cases h
      exact .nothing hrx rfl
    · rw [startReceive_pending htp hrx] at h
      by_cases hk : k ≤ (s.draws.rxAtRead s.rx).length
      · rw [readOrHold_ready (by exact hk)] at h
        exact .read hrx hk h
      · rw [readOrHold_short (by simpa using hk)] at h
        cases h
        exact .held hrx (by omega) rfl

/-- receiveFrame goes on only from an idle state with a listening transport. -/
theorem execReceiveFrame_next {n : Nat} {s t : State} (h : execReceiveFrame n s = .next t) :
    s.phase = .idle ∧ n ≤ 255 ∧ s.tp ≠ .closed ∧ ReceiveDid (n + 3) (latchLen .receiveFrame n s) t := by
  unfold execReceiveFrame at h
  cases he : entryRefusal n s with
  | none =>
    simp only [he] at h
    have h1 := (entryRefusal_none n s).mp he
    have h2 := startReceive_next h
    exact ⟨h1.1, h1.2, h2.1, h2.2⟩
  | some r => simp [he] at h

/-- receiveRaw goes on only from an idle state with a listening transport. -/
theorem execReceiveRaw_next {n : Nat} {s t : State} (h : execReceiveRaw n s = .next t) :
    s.phase = .idle ∧ n ≤ 255 ∧ s.tp ≠ .closed ∧ ReceiveDid n (latchLen .receiveRaw n s) t := by
  unfold execReceiveRaw at h
  cases he : entryRefusal n s with
  | none =>
    simp only [he] at h
    have h1 := (entryRefusal_none n s).mp he
    have h2 := startReceive_next h
    exact ⟨h1.1, h1.2, h2.1, h2.2⟩
  | some r => simp [he] at h

/-- An idle engine takes a receiveFrame whose operand is in its domain to its poll. -/
theorem execReceiveFrame_start {n : Nat} {s : State} (hp : s.phase = .idle) (hn : n ≤ 255) :
    execReceiveFrame n s = startReceive (n + 3) (latchLen .receiveFrame n s) := by
  simp [execReceiveFrame, (entryRefusal_none n s).mpr ⟨hp, hn⟩, Config.rxOverhead]

/-- An idle engine takes a receiveRaw whose operand is in its domain to its poll. -/
theorem execReceiveRaw_start {n : Nat} {s : State} (hp : s.phase = .idle) (hn : n ≤ 255) :
    execReceiveRaw n s = startReceive n (latchLen .receiveRaw n s) := by
  simp [execReceiveRaw, (entryRefusal_none n s).mpr ⟨hp, hn⟩]

end Sys2Proof.Machine
end

