-- ==== Sys2Proof/Laws/Step.lean ====
section
/-! SUPPORT. Everything one step can do, said once (the inversion lemma of step). -/

namespace Sys2Proof.Machine

/-- What a step that goes on has done. -/
inductive StepDid (s t : State) : Prop where
  /-- Nothing to take: the engine waits, or its read is held. -/
  | waited (h : s.inputs = []) (ht : t = s)
  /-- The caller's operation ran. -/
  | ran (c : Command) (rest : List Input) (i : Instr) (hp : s.phase = .idle) (hin : s.inputs = .call c :: rest)
      (hd : decode c = .instr i) (ht : exec i { s with inputs := rest } = .next t)
  /-- The environment appended bytes to `rx`. -/
  | arrived (bytes : List Byte) (rest : List Input) (hin : s.inputs = .arrive bytes :: rest)
      (ht : t = { s with rx := s.rx ++ bytes, inputs := rest })
  /-- The environment changed `rx`. -/
  | changed (bytes : List Byte) (rest : List Input) (hin : s.inputs = .rxBecomes bytes :: rest)
      (ht : t = { s with rx := bytes, inputs := rest })
  /-- A timeout that concerns no read, or a transport that never times out. -/
  | ignored (j : Nat) (rest : List Input) (hin : s.inputs = .timeout j :: rest) (ht : t = { s with inputs := rest })
  /-- The engine was reset between operations. -/
  | wasReset (rest : List Input) (hp : s.phase = .idle) (hin : s.inputs = .reset :: rest)
      (ht : t = resetEngine { s with inputs := rest })
  /-- The engine ceased to exist, between operations or while its read was held. -/
  | destroyed (rest : List Input) (hin : s.inputs = .destroy :: rest) (ht : t = destroyEngine s)
  /-- A held read completed. -/
  | completed (k : Nat) (hp : s.phase = .rxRead) (hk : readCount s.work = some k) (hrx : k ≤ s.rx.length)
      (ht : completeRead k s = .next t)
  /-- A held read timed out. -/
  | timedOut (k j : Nat) (rest : List Input) (hp : s.phase = .rxRead) (hk : readCount s.work = some k)
      (hrx : s.rx.length < k) (hin : s.inputs = .timeout j :: rest) (hto : s.params.rxTimeout.isSome = true)
      (ht : t = timeoutRead k j { s with inputs := rest })

theorem step_cases {s t : State} (h : step s = .next t) : StepDid s t := by
  unfold step sequenceStep at h
  cases hp : s.phase <;> simp only [hp] at h
  case idle =>
    unfold stepIdle at h
    split at h
    next hin => cases h; exact .waited hin rfl
    next c rest hin =>
      unfold runCall at h
      split at h
      next i hd => exact .ran c rest i hp hin hd h
      next e _ => cases h
    next b rest hin => cases h; exact .arrived b rest hin rfl
    next b rest hin => cases h; exact .changed b rest hin rfl
    next j rest hin => cases h; exact .ignored j rest hin rfl
    next rest hin => cases h; exact .wasReset rest hp hin rfl
    next rest hin => cases h; exact .destroyed rest hin rfl
  case rxRead =>
    unfold stepReading at h
    split at h
    next => cases h
    next k hk =>
      split at h
      next hrx => exact .completed k hp hk hrx h
      next hrx =>
        unfold stepWaiting at h
        split at h
        next hin => cases h; exact .waited hin rfl
        next => cases h
        next b rest hin => cases h; exact .arrived b rest hin rfl
        next b rest hin => cases h; exact .changed b rest hin rfl
        next j rest hin =>
          split at h <;> cases h
          next hto => exact .timedOut k j rest hp hk (by omega) hin hto rfl
          next => exact .ignored j rest hin rfl
        next => cases h
        next rest hin => cases h; exact .destroyed rest hin rfl
  all_goals cases h

/-- What a call is, step by step: the decoded operation runs on the state without the call. -/
theorem step_call {s : State} {c : Command} {rest : List Input} (hp : s.phase = .idle) (hin : s.inputs = .call c :: rest) :
    step s = runCall c { s with inputs := rest } := by
  simp [step, sequenceStep, hp, stepIdle, hin]

/-- What a held read is, step by step. -/
theorem step_reading {s : State} (hp : s.phase = .rxRead) : step s = stepReading s := by
  simp [step, sequenceStep, hp]

end Sys2Proof.Machine
end

