-- ==== Sys2Proof/Laws/Run.lean ====
section
/-! SUPPORT. How the results of a run come together, step by step. -/

namespace Sys2Proof.Machine

@[simp] theorem runResults_zero (s : State) : runResults 0 s = some ([], s) := rfl

/-- A run whose first step goes on: the rest of the run, behind the result of the operation that this step ended, if it did. -/
theorem runResults_next {k : Nat} {s t : State} (h : step s = .next t) :
    runResults (k + 1) s =
      (runResults k t).map (fun r => (if endsOperation s t then resultOf t :: r.1 else r.1, r.2)) := by
  rw [runResults]
  split <;> simp_all
  split <;> simp_all

/-- A run whose first step is refused has no results. -/
theorem runResults_refused {k : Nat} {s : State} {r : Refusal} (h : step s = .refused r) : runResults (k + 1) s = none := by
  rw [runResults]
  split <;> simp_all

/-- A run that goes on so far has an outcome exactly if it is over. -/
theorem runOutcome_eq {k : Nat} {s t : State} {results : List Result} (h : runResults k s = some (results, t)) :
    runOutcome k s =
      if runIsOver t then
        some { results := results, tp := t.tp, rx := t.rx, tx := t.tx, line := t.line, wake := t.wake, hist := t.hist }
      else none := by
  simp [runOutcome, h]

/-- A call that is taken runs an operation. -/
theorem operationRuns_call {s : State} {c : Command} {rest : List Input} (hin : s.inputs = .call c :: rest) :
    operationRuns s = true := by
  simp [operationRuns, hin, Input.isCall]

/-- A read that is held is an operation in progress. -/
theorem operationRuns_reading {s : State} (hp : s.phase = .rxRead) : operationRuns s = true := by
  simp [operationRuns, hp]

end Sys2Proof.Machine
end

