-- ==== Sys2Proof/Laws/Send.lean ====
section
/-! SUPPORT. Everything a send can do: the state each body answers, in one equation. -/

namespace Sys2Proof.Machine

/-- The checksum phase leaves `FIN = cks(data)` to be read. -/
theorem checksumPhase_eq (data : List Byte) (s : State) :
    checksumPhase data s = { s with phase := .cks, work := { s.work with acc := byteSum data } } := by
  simp [checksumPhase, accAddAll_eq, accClr, enter]

/-- The events of `wake_before`. -/
def wakeLog (s : State) : List Event :=
  if s.params.wakeCtrl then [.line .wake s.params.wakeActive, .delay Config.wakeDelayUs] else []

/-- The events of a break. -/
def breakLog (s : State) : List Event :=
  [.line .tx .low, .delay (s.cfg.hold Config.breakBits), .line .tx .high]

/-- The events of `sleep_after`. -/
def sleepLog (s : State) : List Event :=
  if s.params.wakeCtrl then [.line .wake (opposite s.params.wakeActive)] else []

/-- `idx` after writing the data bytes. -/
def dataIdx (data : List Byte) (s : State) : BitVec 9 :=
  if data = [] then s.work.idx else BitVec.ofNat 9 (data.length - 1)

/-- Two `Wr` events that follow each other, as one list. -/
theorem ackList_snoc (d : Draws) (n : Nat) : d.ackList (n + 1) = d.ackList n ++ [(d.popAcks n).nextAck] := by
  rw [Draws.ackList_add]; rfl

theorem ackList_two_add (d : Draws) (n : Nat) :
    d.ackList (n + 2) = d.nextAck :: (d.popAcks 1).nextAck :: (d.popAcks 2).ackList n := by
  rw [Nat.add_comm, Draws.ackList_add]; rfl

/-- What sendFrame answers (41_encoder.md R91). -/
theorem sendFrameBody_eq (id : Byte) (data : List Byte) (s : State) :
    sendFrameBody id data s =
      { s with
        work := { s.work with op := .sendFrame, id := id, len := BitVec.ofNat 8 data.length, data := data,
                              acc := byteSum data, idx := dataIdx data s, brkCnt := s.cfg.hold Config.breakBits }
        phase := .idle
        status := statusOfWrites ((s.draws.ackList (data.length + 3)).all (fun a => a))
        rdata := none
        tp := .closed
        rx := s.draws.popPending.nextPending
        tx := s.tx ++ ([Config.syncByte, id] ++ data ++ [cks data])
        line := .high
        wake := if s.params.wakeCtrl then opposite s.params.wakeActive else s.wake
        hist := s.hist ++ (wakeLog s ++ breakLog s ++ [.cfg s.cfg.baud] ++
          List.zipWith Event.wr ([Config.syncByte, id] ++ data ++ [cks data]) (s.draws.ackList (data.length + 3)) ++
          [.close] ++ sleepLog s)
        draws := (s.draws.popAcks (data.length + 3)).popPending.popPending } := by
  have h3 : data.length + 3 = (data.length + 1) + 2 := rfl
  rw [h3, ackList_two_add, ackList_snoc]
  cases hw : s.params.wakeCtrl <;>
    simp [sendFrameBody, checksumPhase_eq, latchFrame, wakeBefore_eq, hw, synchBreak_eq, enter, emitCfg, emitWr, emitData_eq,
      emitClose, sleepAfter_eq, finish, wakeLog, breakLog, sleepLog, dataIdx, cks, Nat.add_comm, Nat.add_left_comm,
      Bool.and_assoc, List.zipWith_append]

/-- What sendHeader answers (41_encoder.md R92). -/
theorem sendHeaderBody_eq (id : Byte) (s : State) :
    sendHeaderBody id s =
      { s with
        work := { s.work with op := .sendHeader, id := id, brkCnt := s.cfg.hold Config.breakBits }
        phase := .idle
        status := statusOfWrites ((s.draws.ackList 2).all (fun a => a))
        rdata := none
        tp := .closed
        rx := s.draws.popPending.nextPending
        tx := s.tx ++ [Config.syncByte, id]
        line := .high
        hist := s.hist ++ (breakLog s ++ [.cfg s.cfg.baud] ++
          List.zipWith Event.wr [Config.syncByte, id] (s.draws.ackList 2) ++ [.close])
        draws := (s.draws.popAcks 2).popPending.popPending } := by
  simp [sendHeaderBody, latchHeader, synchBreak_eq, enter, emitCfg, emitWr, emitClose, finish, breakLog, Draws.ackList]

/-- What sendResponse answers (41_encoder.md R93). -/
theorem sendResponseBody_eq (data : List Byte) (s : State) :
    sendResponseBody data s =
      { s with
        work := { s.work with op := .sendResponse, len := BitVec.ofNat 8 data.length, data := data,
                              acc := byteSum data, idx := dataIdx data s }
        phase := .idle
        status := statusOfWrites ((s.draws.ackList (data.length + 1)).all (fun a => a))
        rdata := none
        tp := .closed
        rx := s.draws.popPending.nextPending
        tx := s.tx ++ (data ++ [cks data])
        hist := s.hist ++ ([.cfg s.cfg.baud] ++
          List.zipWith Event.wr (data ++ [cks data]) (s.draws.ackList (data.length + 1)) ++ [.close])
        draws := (s.draws.popAcks (data.length + 1)).popPending.popPending } := by
  rw [ackList_snoc]
  simp [sendResponseBody, checksumPhase_eq, latchData, enter, emitCfg, emitWr, emitData_eq, emitClose, finish, dataIdx, cks,
    List.zipWith_append]

/-- What sendRaw answers (41_encoder.md R94). -/
theorem sendRawBody_eq (data : List Byte) (s : State) :
    sendRawBody data s =
      { s with
        work := { s.work with op := .sendRaw, len := BitVec.ofNat 8 data.length, data := data,
                              idx := dataIdx data s, brkCnt := s.cfg.hold Config.breakBits }
        phase := .idle
        status := statusOfWrites ((s.draws.ackList data.length).all (fun a => a))
        rdata := none
        tp := .closed
        rx := s.draws.popPending.nextPending
        tx := s.tx ++ data
        line := .high
        hist := s.hist ++ (breakLog s ++ [.cfg s.cfg.baud] ++
          List.zipWith Event.wr data (s.draws.ackList data.length) ++ [.close])
        draws := (s.draws.popAcks data.length).popPending.popPending } := by
  simp [sendRawBody, latchData, synchBreak_eq, enter, emitCfg, emitData_eq, emitClose, finish, breakLog, dataIdx]

/-- What prepareReceive answers (42_decoder.md R104). -/
theorem prepareReceiveBody_eq (s : State) :
    prepareReceiveBody s =
      { s with
        work := { s.work with op := .prepareReceive }
        phase := .idle
        status := .ok
        rdata := none
        tp := .openAt s.cfg.baud
        rx := s.draws.nextPending
        hist := s.hist ++ [.cfg s.cfg.baud]
        draws := s.draws.popPending } := by
  simp [prepareReceiveBody, emitCfg, enter, latchNone, finish]

/-- A send goes on exactly from an idle state with its data in their domain, and then as its body says. -/
theorem execSendFrame_next {id : Byte} {data : List Byte} {s t : State} :
    execSendFrame id data s = .next t ↔ s.phase = .idle ∧ data.length ≤ 255 ∧ t = sendFrameBody id data s := by
  unfold execSendFrame
  cases h : entryRefusal data.length s with
  | none => rw [entryRefusal_none] at h; simp [h, eq_comm]
  | some r => simp only [reduceCtorEq, false_iff]; intro hc; have := (entryRefusal_none _ _).mpr ⟨hc.1, hc.2.1⟩; simp [this] at h

theorem execSendHeader_next {id : Byte} {s t : State} :
    execSendHeader id s = .next t ↔ s.phase = .idle ∧ t = sendHeaderBody id s := by
  unfold execSendHeader
  cases h : entryRefusal 0 s with
  | none => rw [entryRefusal_none] at h; simp [h, eq_comm]
  | some r => simp only [reduceCtorEq, false_iff]; intro hc; have := (entryRefusal_none 0 _).mpr ⟨hc.1, by omega⟩; simp [this] at h

theorem execSendResponse_next {data : List Byte} {s t : State} :
    execSendResponse data s = .next t ↔ s.phase = .idle ∧ data.length ≤ 255 ∧ t = sendResponseBody data s := by
  unfold execSendResponse
  cases h : entryRefusal data.length s with
  | none => rw [entryRefusal_none] at h; simp [h, eq_comm]
  | some r => simp only [reduceCtorEq, false_iff]; intro hc; have := (entryRefusal_none _ _).mpr ⟨hc.1, hc.2.1⟩; simp [this] at h

theorem execSendRaw_next {data : List Byte} {s t : State} :
    execSendRaw data s = .next t ↔ s.phase = .idle ∧ data.length ≤ 255 ∧ t = sendRawBody data s := by
  unfold execSendRaw
  cases h : entryRefusal data.length s with
  | none => rw [entryRefusal_none] at h; simp [h, eq_comm]
  | some r => simp only [reduceCtorEq, false_iff]; intro hc; have := (entryRefusal_none _ _).mpr ⟨hc.1, hc.2.1⟩; simp [this] at h

theorem execPrepareReceive_next {s t : State} :
    execPrepareReceive s = .next t ↔ s.phase = .idle ∧ t = prepareReceiveBody s := by
  unfold execPrepareReceive
  cases h : entryRefusal 0 s with
  | none => rw [entryRefusal_none] at h; simp [h, eq_comm]
  | some r => simp only [reduceCtorEq, false_iff]; intro hc; have := (entryRefusal_none 0 _).mpr ⟨hc.1, by omega⟩; simp [this] at h

end Sys2Proof.Machine
end

