-- ==== Sys2Proof/Tests/Slice0.lean ====
section
/-! SUPPORT. The model's own tests. Every expected value is copied from spec/95_test_vectors.md (a vector V-..., a program) or
worked out by hand from the rule named; and for every statement with hypotheses, a concrete case that meets them. -/

namespace Sys2Proof.Tests

open Sys2Proof.Machine Sys2Proof.Safety Sys2Proof.Statements

/-! ## Well-formedness: one ill-formed term for each check (30_encoding.md R72 (b), 60_exceptions.md R136 (e)) -/

def bytes256 : List Byte := List.replicate 256 0xA5#8
def bytes255 : List Byte := List.replicate 255 0xFF#8

theorem test_wf_refuses_256_bytes_sendFrame : (Instr.sendFrame 0x12#8 bytes256).wf = false := by decide +kernel
theorem test_wf_refuses_256_bytes_sendResponse : (Instr.sendResponse bytes256).wf = false := by decide +kernel
theorem test_wf_refuses_256_bytes_sendRaw : (Instr.sendRaw bytes256).wf = false := by decide +kernel
theorem test_wf_refuses_256_receiveFrame : (Instr.receiveFrame 256).wf = false := by decide
theorem test_wf_refuses_256_receiveRaw : (Instr.receiveRaw 256).wf = false := by decide
theorem test_wf_accepts_255 :
    (Instr.sendFrame 0xFF#8 bytes255).wf = true ∧ (Instr.receiveFrame 255).wf = true ∧ (Instr.receiveRaw 0).wf = true := by decide +kernel

/-! ## Decoding: words written out bit by bit from 30_encoding.md R70 (op, id, len) -/

/-- Program 5, line 1: `000 3C 02 : 00 FF`. -/
theorem test_decode_sendFrame :
    decode ⟨0b000_00111100_00000010#19, [0x00#8, 0xFF#8]⟩ = .instr (.sendFrame 0x3C#8 [0x00#8, 0xFF#8]) := by decide
/-- Program 2, line 1: `001 22 --`, the ignored field all ones. -/
theorem test_decode_sendHeader : decode ⟨0b001_00100010_11111111#19, []⟩ = .instr (.sendHeader 0x22#8) := by decide
/-- Program 1, line 4: `010 -- 02 : 01 02`. -/
theorem test_decode_sendResponse :
    decode ⟨0b010_11111111_00000010#19, [0x01#8, 0x02#8]⟩ = .instr (.sendResponse [0x01#8, 0x02#8]) := by decide
/-- Program 4, line 2: `011 -- 04 : DE AD BE EF`. -/
theorem test_decode_sendRaw :
    decode ⟨0b011_00000000_00000100#19, [0xDE#8, 0xAD#8, 0xBE#8, 0xEF#8]⟩ =
      .instr (.sendRaw [0xDE#8, 0xAD#8, 0xBE#8, 0xEF#8]) := by decide
/-- Program 1, line 2: `100 -- 03`. -/
theorem test_decode_receiveFrame : decode ⟨0b100_10101010_00000011#19, []⟩ = .instr (.receiveFrame 3) := by decide
/-- Program 4, line 1: `101 -- 04`. -/
theorem test_decode_receiveRaw : decode ⟨0b101_00000000_00000100#19, []⟩ = .instr (.receiveRaw 4) := by decide
/-- Program 1, line 1: `110 -- --`. -/
theorem test_decode_prepareReceive : decode ⟨0b110_11111111_11111111#19, []⟩ = .instr .prepareReceive := by decide
/-- 30_encoding.md R72 (a). -/
theorem test_decode_reserved : decode ⟨0b111_00000000_00000000#19, []⟩ = .rejected .reservedCommand := by decide
/-- 60_exceptions.md R136 (e). -/
theorem test_decode_mismatch : decode ⟨0b011_00000000_00000010#19, [0xDE#8]⟩ = .rejected .dataLengthMismatch := by decide

/-- The words of spec/opcode_table.json with the data bytes it leaves out as zeros: the decoder's answers. -/
theorem test_table_words :
    decodeTableWord 24 0b000_00010010_00000001 = some (.sendFrame 0x12#8 [0x00#8]) ∧
    decodeTableWord 24 0b001_00010010_00000000 = some (.sendHeader 0x12#8) ∧
    decodeTableWord 24 0b010_00000000_00000010 = some (.sendResponse [0x00#8, 0x00#8]) ∧
    decodeTableWord 24 0b011_00000000_00000001 = some (.sendRaw [0x00#8]) ∧
    decodeTableWord 24 0b100_00000000_11111111 = some (.receiveFrame 255) ∧
    decodeTableWord 24 0b101_00000000_00000000 = some (.receiveRaw 0) ∧
    decodeTableWord 24 0b110_00000000_00000000 = some .prepareReceive ∧
    decodeTableWord 24 0b111_00000000_00000000 = none := by decide

/-! ## Arithmetic: rows of tables V-C1, V-C2 and V-B1 -/

theorem test_cks_V_C1 :
    cks [] = 0xFE#8 ∧ cks [0xFE#8] = 0x00#8 ∧ cks [0xFF#8] = 0xFF#8 ∧ cks [0x80#8, 0x80#8] = 0xFE#8 ∧
    cks [0x10#8, 0x20#8, 0x30#8] = 0x9E#8 ∧ cks [0x12#8, 0x34#8, 0x56#8, 0x78#8] = 0xEA#8 ∧
    cks [0xDE#8, 0xAD#8, 0xBE#8, 0xEF#8] = 0xC6#8 := by decide
theorem test_cks_longest_V_C1 : cks bytes255 = 0xFD#8 := by decide +kernel
theorem test_accumulator_V_C2 :
    accFin 0x60#8 = 0x9E#8 ∧ accFin 0xFD#8 = 0x01#8 ∧ accFin 0xFE#8 = 0x00#8 ∧ accFin 0xFF#8 = 0xFF#8 ∧
    accVerify 0x60#8 0x9E#8 = true ∧ accVerify 0x60#8 0x9F#8 = false ∧ accVerify 0xFF#8 0x00#8 = false := by decide
theorem test_period_V_B1 :
    (Cfg.mk 54 none).period = 0 ∧ (Cfg.mk 55 none).period = 1 ∧ (Cfg.mk 163 none).period = 2 ∧
    (Cfg.mk 9600 none).period = 88 ∧ (Cfg.mk 19200 none).period = 177 ∧ (Cfg.mk 1000000 none).hold 13 = 119821 := by decide

/-! ## One step on a small state -/

/-- An engine just created with a rate, an identifier and `WAKE_CTRL`, on a bench whose writes all succeed and whose `Cfg` and
`Close` leave nothing pending. -/
def bench (baud : Nat) (own : Option Byte) (wakeCtrl : Bool) : State :=
  { State.create ⟨baud, own⟩ ⟨wakeCtrl, .high, some 100⟩ with
    draws := ⟨List.replicate 16 true, 0, List.replicate 4 [], 0, []⟩ }

/-- The same engine after a prepareReceive, with bytes pending. -/
def listening (baud : Nat) (own : Option Byte) (rx : List Byte) : State :=
  { bench baud own false with tp := .openAt baud, rx := rx, hist := [.cfg baud] }

/-- The caller's next call. -/
def calling (c : Command) (s : State) : State := { s with inputs := [.call c] }

/-- The outcome is a next state with this history, these pending and written bytes, this transport and this result, and with
the line released. -/
def ends (o : Host.Outcome State Fault Refusal) (hist : List Event) (rx tx : List Byte) (tp : Transport)
    (result : Status × Option (List Byte)) : Bool :=
  match o with
  | .next t =>
    decide (t.hist = hist) && decide (t.rx = rx) && decide (t.tx = tx) && decide (t.tp = tp) && decide (resultOf t = result) &&
      decide (t.line = .high) && decide (t.phase = .idle)
  | .fault _ => false
  | .refused _ => false

/-- The refusal an outcome is, if it is one. -/
def refusalIn (o : Host.Outcome State Fault Refusal) : Option Refusal :=
  match o with
  | .next _ => none
  | .fault _ => none
  | .refused r => some r

/-- The successful writes of some bytes. -/
def writes (bytes : List Byte) : List Event := bytes.map fun b => .wr b true

/-- The break events, `Delay(us)` between them, and `Cfg(baud)`. -/
def breakThenCfg (us baud : Nat) : List Event := [.line .tx .low, .delay us, .line .tx .high, .cfg baud]

/-- Vector V-E4: `WAKE_CTRL` true. -/
theorem test_sendFrame_V_E4 :
    ends (step (calling ⟨0b000_00010010_00000011#19, [0x10#8, 0x20#8, 0x30#8]⟩ (bench 9600 none true)))
      ([.line .wake .high, .delay 20] ++ breakThenCfg 1144 9600 ++ writes [0x55#8, 0x12#8, 0x10#8, 0x20#8, 0x30#8, 0x9E#8] ++
        [.close, .line .wake .low])
      [] [0x55#8, 0x12#8, 0x10#8, 0x20#8, 0x30#8, 0x9E#8] .closed (.ok, none) = true := by decide

/-- Vector V-E14: the second write fails, and all eleven events still occur. What `tx` holds is log entry 10. -/
theorem test_sendFrame_V_E14 :
    ends (step { calling ⟨0b000_00010010_00000011#19, [0x10#8, 0x20#8, 0x30#8]⟩ (bench 9600 none false) with
        draws := ⟨[true, false, true, true, true, true], 0, [[], []], 0, []⟩ })
      (breakThenCfg 1144 9600 ++ [.wr 0x55#8 true, .wr 0x12#8 false] ++ writes [0x10#8, 0x20#8, 0x30#8, 0x9E#8] ++ [.close])
      [] [0x55#8, 0x12#8, 0x10#8, 0x20#8, 0x30#8, 0x9E#8] .closed (.writeFailure, none) = true := by decide

/-- Vector V-E5. -/
theorem test_sendHeader_V_E5 :
    ends (step (calling ⟨0b001_00100010_00000000#19, []⟩ (bench 10417 none false)))
      (breakThenCfg 1248 10417 ++ writes [0x55#8, 0x22#8] ++ [.close]) [] [0x55#8, 0x22#8] .closed (.ok, none) = true := by decide

/-- Vector V-E15: the transport was open. -/
theorem test_sendHeader_V_E15 :
    ends (step (calling ⟨0b001_00100010_00000000#19, []⟩ (listening 9600 none [])))
      ([.cfg 9600] ++ breakThenCfg 1144 9600 ++ writes [0x55#8, 0x22#8] ++ [.close]) [] [0x55#8, 0x22#8] .closed (.ok, none) =
      true := by decide

/-- Vector V-E12: the carry is dropped; the line is not driven, nor is the wake line. -/
theorem test_sendResponse_V_E12 :
    ends (step (calling ⟨0b010_00000000_00000010#19, [0xFF#8, 0x01#8]⟩ (bench 9600 none true)))
      ([.cfg 9600] ++ writes [0xFF#8, 0x01#8, 0xFE#8] ++ [.close]) [] [0xFF#8, 0x01#8, 0xFE#8] .closed (.ok, none) = true := by
  decide

/-- Vector V-E7: no data. -/
theorem test_sendResponse_V_E7 :
    ends (step (calling ⟨0b010_00000000_00000000#19, []⟩ (bench 9600 none false)))
      ([.cfg 9600] ++ writes [0xFE#8] ++ [.close]) [] [0xFE#8] .closed (.ok, none) = true := by decide

/-- Vector V-E8: no checksum. -/
theorem test_sendRaw_V_E8 :
    ends (step (calling ⟨0b011_00000000_00000100#19, [0xDE#8, 0xAD#8, 0xBE#8, 0xEF#8]⟩ (bench 2400 none false)))
      (breakThenCfg 286 2400 ++ writes [0xDE#8, 0xAD#8, 0xBE#8, 0xEF#8] ++ [.close])
      [] [0xDE#8, 0xAD#8, 0xBE#8, 0xEF#8] .closed (.ok, none) = true := by decide

/-- Vector V-E9: no byte at all. -/
theorem test_sendRaw_V_E9 :
    ends (step (calling ⟨0b011_00000000_00000000#19, []⟩ (bench 9600 none false)))
      (breakThenCfg 1144 9600 ++ [.close]) [] [] .closed (.ok, none) = true := by decide

/-- Vector V-D9: what follows the frame stays pending. -/
theorem test_receiveFrame_V_D9 :
    ends (step (calling ⟨0b100_00000000_00000010#19, []⟩
        (listening 9600 (some 0x12#8) [0x55#8, 0x12#8, 0x01#8, 0x02#8, 0xFB#8, 0x55#8, 0x12#8])))
      [.cfg 9600, .avail true, .rd 5 (.bytes [0x55#8, 0x12#8, 0x01#8, 0x02#8, 0xFB#8])]
      [0x55#8, 0x12#8] [] (.openAt 9600) (.ok, some [0x01#8, 0x02#8]) = true := by decide

/-- Vector V-D5: wrong identifier and wrong checksum. -/
theorem test_receiveFrame_V_D5 :
    ends (step (calling ⟨0b100_00000000_00000011#19, []⟩
        (listening 9600 (some 0x13#8) [0x55#8, 0x12#8, 0x10#8, 0x20#8, 0x30#8, 0x00#8])))
      [.cfg 9600, .avail true, .rd 6 (.bytes [0x55#8, 0x12#8, 0x10#8, 0x20#8, 0x30#8, 0x00#8])]
      [] [] (.openAt 9600) (.identifierMismatch, none) = true := by decide

/-- Vector V-D13. -/
theorem test_receiveRaw_V_D13 :
    ends (step (calling ⟨0b101_00000000_00000010#19, []⟩ (listening 9600 none [0xAA#8, 0x55#8, 0x01#8])))
      [.cfg 9600, .avail true, .rd 2 (.bytes [0xAA#8, 0x55#8])] [0x01#8] [] (.openAt 9600) (.ok, some [0xAA#8, 0x55#8]) =
      true := by decide

/-- Vector V-D15: a read of no bytes. -/
theorem test_receiveRaw_V_D15 :
    ends (step (calling ⟨0b101_00000000_00000000#19, []⟩ (listening 9600 none [0x77#8])))
      [.cfg 9600, .avail true, .rd 0 (.bytes [])] [0x77#8] [] (.openAt 9600) (.ok, some []) = true := by decide

/-- Vector V-D23, first call. -/
theorem test_prepareReceive_V_D23 :
    ends (step (calling ⟨0b110_00000000_00000000#19, []⟩ (bench 19200 none false)))
      [.cfg 19200] [] [] (.openAt 19200) (.ok, none) = true := by decide

/-- Vector V-D23, second call. -/
theorem test_prepareReceive_V_D23_again :
    ends (step (calling ⟨0b110_00000000_00000000#19, []⟩ (listening 19200 none [])))
      [.cfg 19200, .cfg 19200] [] [] (.openAt 19200) (.ok, none) = true := by decide

/-- An engine that holds a read of receiveFrame(3) with three bytes pending (vector V-D19). -/
def held : State :=
  { listening 9600 (some 0x12#8) [0x55#8, 0x12#8, 0x10#8] with
    phase := .rxRead
    work := { Work.reset with op := .receiveFrame, len := 3#8 }
    hist := [.cfg 9600, .avail true] }

/-- The same engine once the six bytes of the frame are pending (vector V-D20). -/
def heldComplete : State := { held with rx := [0x55#8, 0x12#8, 0x10#8, 0x20#8, 0x30#8, 0x9E#8] }

/-- Vector V-D19: the read times out having consumed one byte, one of the four outcomes the vector lists. -/
theorem test_timeout_V_D19 :
    ends (step { held with inputs := [.timeout 1] })
      [.cfg 9600, .avail true, .rd 6 .timeout] [0x12#8, 0x10#8] [] (.openAt 9600) (.transportTimeout, none) = true := by decide

/-- Vector V-D20: a read that was held completes once its bytes are pending. -/
theorem test_blocking_V_D20 :
    ends (step heldComplete)
      [.cfg 9600, .avail true, .rd 6 (.bytes [0x55#8, 0x12#8, 0x10#8, 0x20#8, 0x30#8, 0x9E#8])]
      [] [] (.openAt 9600) (.ok, some [0x10#8, 0x20#8, 0x30#8]) = true := by decide

/-- One byte is pending at the poll, and the environment has taken it away by the read (20_memory.md R51, decision D29). -/
def emptied : State :=
  { listening 9600 none [0x77#8] with draws := ⟨[], 0, [], 0, [[]]⟩, inputs := [.call ⟨0b101_00000000_00000001#19, []⟩, .timeout 0] }

/-- `Avail() -> true`, then `Rd(1) -> Timeout`: the two steps of a receiveRaw(1) whose byte the environment took away between them
(20_memory.md R51, 60_exceptions.md R124). -/
theorem test_avail_then_timeout_R51 :
    runOutcome 2 emptied =
      some ⟨[(.transportTimeout, none)], .openAt 9600, [], [], .high, .low, [.cfg 9600, .avail true, .rd 1 .timeout]⟩ := by
  decide

/-- Program 1, lines 1 and 2: the results in order and the final state (60_exceptions.md R138). `wake` is log entry 8. -/
theorem test_run_outcome_Program_1 :
    runOutcome 2 { bench 9600 (some 0x12#8) false with
        inputs := [.call ⟨0b110_00000000_00000000#19, []⟩, .call ⟨0b100_00000000_00000011#19, []⟩] } =
      some ⟨[(.ok, none), (.noData, none)], .openAt 9600, [], [], .high, .low, [.cfg 9600, .avail false]⟩ := by decide

/-- A run that holds a read is not over, and one that is refused has no outcome (60_exceptions.md R138). -/
theorem test_run_without_outcome :
    runOutcome 3 held = none ∧
    runOutcome 1 (calling ⟨0b100_00000000_00000011#19, []⟩ (bench 9600 none false)) = none := by decide

/-- After a prepareReceive and a reset, a receive is refused (70_reset_and_hazards.md R140, R142 (3)). -/
theorem test_reset_closes_the_transport :
    ∃ t, step { listening 9600 (some 0x12#8) [0x55#8] with inputs := [.reset, .call ⟨0b101_00000000_00000001#19, []⟩] } = .next t ∧
      t.hist = [] ∧ refusalIn (step t) = some .transportNotListening :=
  ⟨_, rfl, by decide, by decide⟩

/-- The process ends while a read is held: no event, the transport stays open (70_reset_and_hazards.md R141). -/
theorem test_destroy_while_held :
    ∃ t, step { held with inputs := [.destroy] } = .next t ∧ t.hist = held.hist ∧ t.tp = .openAt 9600 ∧ step t = .next t :=
  ⟨_, rfl, by decide, by decide, rfl⟩

/-- Vectors V-D21 and V-D22: what is refused. -/
theorem test_refusals_V_D21_V_D22 :
    refusalIn (step (calling ⟨0b100_00000000_00000011#19, []⟩ (bench 9600 (some 0x12#8) false))) =
      some .transportNotListening ∧
    refusalIn (step (calling ⟨0b100_00000000_00000011#19, []⟩
      (listening 9600 none [0x55#8, 0x12#8, 0x10#8, 0x20#8, 0x30#8, 0x9E#8]))) = some .noIdentifierConfigured := by decide

/-- A table word placed by `withFetchWord` is the call that the very next step takes, just after reset too (log entry 6). -/
theorem test_withFetchWord_after_reset :
    ∃ t, step (State.reset.withFetchWord 24 0b001_00010010_00000000) = .next t ∧ t.tx = [0x55#8, 0x12#8] ∧ t.inputs = [] :=
  ⟨_, rfl, by decide, by decide⟩

/-! ## Cases that meet the hypotheses of the statements -/

theorem test_witness_DecodeOfEncode :
    (Instr.sendFrame 0x00#8 []).WellFormed ∧ (Instr.sendFrame 0xFF#8 bytes255).WellFormed ∧
    (Instr.sendHeader 0x80#8).WellFormed ∧ (Instr.sendResponse bytes255).WellFormed ∧ (Instr.sendRaw bytes255).WellFormed ∧
    (Instr.receiveFrame 255).WellFormed ∧ (Instr.receiveRaw 255).WellFormed ∧ Instr.prepareReceive.WellFormed := by decide +kernel

theorem test_witness_EncodeOfDecode :
    decode ⟨0b000_00010010_00000001#19, [0x10#8]⟩ = .instr (.sendFrame 0x12#8 [0x10#8]) ∧
    TakesId (.sendFrame 0x12#8 [0x10#8]) ∧ TakesData (.sendFrame 0x12#8 [0x10#8]) ∧
    decode ⟨0b101_11111111_11111111#19, []⟩ = .instr (.receiveRaw 255) ∧ IsReceive (.receiveRaw 255) :=
  ⟨by decide, trivial, trivial, by decide, trivial⟩

/-- Every value of the 3-bit code occurs. -/
theorem test_witness_CommandFields :
    (0b000_00010010_00000001#19).toNat / 65536 = 0 ∧ (0b001_00010010_00000001#19).toNat / 65536 = 1 ∧
    (0b010_00010010_00000001#19).toNat / 65536 = 2 ∧ (0b011_00010010_00000001#19).toNat / 65536 = 3 ∧
    (0b100_00010010_00000001#19).toNat / 65536 = 4 ∧ (0b101_00010010_00000001#19).toNat / 65536 = 5 ∧
    (0b110_00010010_00000001#19).toNat / 65536 = 6 ∧ (0b111_00010010_00000001#19).toNat / 65536 = 7 := by decide

/-- Two rates on either side of the zero period (43_synch_break.md R118). -/
theorem test_witness_Period : (Cfg.mk 54 none).baud ≤ (Cfg.mk 55 none).baud := by decide

theorem test_witness_ChecksumDetects :
    (0x20#8 : Byte) ≠ 0x21#8 ∧ (0x9F#8 : Byte) ≠ cks [0x10#8, 0x20#8, 0x30#8] ∧
    List.Perm [0x10#8, 0x20#8, 0x30#8] [0x30#8, 0x20#8, (0x10#8 : Byte)] := by decide

/-- The hypotheses of the four results and of HeaderThenResponseWritesTheFrame, with no data and with the most data. -/
theorem test_witness_SendResults :
    (bench 9600 none false).phase = .idle ∧ ([] : List Byte).length ≤ 255 ∧ bytes255.length ≤ 255 ∧
    (bench 9600 none false).params.wakeCtrl = false := by decide +kernel

/-- Each send goes on from an idle state: the hypotheses of SendStatusReportsTheWrites, SendsLeaveTheRestUnchanged,
OnlyListedStatusesAreReturned and ConfigurationNeverChanges. -/
theorem test_witness_SendsGoOn :
    (∃ t, exec (.sendFrame 0x12#8 [0x10#8]) (bench 9600 none false) = .next t) ∧
    (∃ t, exec (.sendHeader 0x12#8) (bench 9600 none false) = .next t) ∧
    (∃ t, exec (.sendResponse [0x10#8]) (bench 9600 none false) = .next t) ∧
    (∃ t, exec (.sendRaw []) (bench 9600 none false) = .next t) ∧
    IsSend (.sendFrame 0x12#8 [0x10#8]) ∧ IsSend (.sendHeader 0x12#8) ∧ IsSend (.sendResponse [0x10#8]) ∧ IsSend (.sendRaw []) :=
  ⟨⟨_, rfl⟩, ⟨_, rfl⟩, ⟨_, rfl⟩, ⟨_, rfl⟩, trivial, trivial, trivial, trivial⟩

/-- Both clauses of WakeWrapIsSendFramesAlone. -/
theorem test_witness_WakeWrap :
    (∃ t, exec (.sendFrame 0x12#8 []) (bench 9600 none true) = .next t) ∧ (bench 9600 none true).params.wakeCtrl = true ∧
    (∃ t, exec (.sendHeader 0x12#8) (bench 9600 none true) = .next t) ∧
    (∃ t, exec (.sendFrame 0x12#8 []) (bench 9600 none false) = .next t) ∧ (bench 9600 none false).params.wakeCtrl = false :=
  ⟨⟨_, rfl⟩, rfl, ⟨_, rfl⟩, ⟨_, rfl⟩, rfl⟩

/-- The hypotheses common to the clauses of the two receive rules, at both ends of the operand's range. -/
theorem test_witness_ReceiveRules :
    (listening 9600 (some 0x12#8) []).phase = .idle ∧ 0 ≤ 255 ∧ 255 ≤ 255 ∧
    (listening 9600 (some 0x12#8) []).work.rxbuf.wf = true ∧
    (bench 9600 (some 0x12#8) false).tp = .closed ∧
    (listening 9600 (some 0x12#8) []).tp ≠ .closed ∧ (listening 9600 (some 0x12#8) []).rx = [] := by decide

/-- Too few bytes: one byte short and one byte pending; enough bytes and no identifier. -/
theorem test_witness_ReceiveRules_short :
    (listening 9600 (some 0x12#8) [0x55#8, 0x12#8]).rx ≠ [] ∧
    (pendingAtRead (listening 9600 (some 0x12#8) [0x55#8, 0x12#8])).length < 0 + 3 ∧
    2 ≤ (pendingAtRead (listening 9600 (some 0x12#8) [0x55#8, 0x12#8])).length ∧
    (listening 9600 (some 0x12#8) [0x55#8, 0x12#8]).params.rxTimeout ≠ none ∧
    (pendingAtRead (listening 9600 none [0x55#8])).length < 2 ∧ 1 ≤ (pendingAtRead (listening 9600 none [0x55#8])).length ∧
    (pendingAtRead emptied).length < 1 ∧ emptied.rx ≠ [] ∧
    0 + 3 ≤ (pendingAtRead (listening 9600 none [0x55#8, 0x12#8, 0xFE#8])).length ∧
    (listening 9600 none [0x55#8, 0x12#8, 0xFE#8]).cfg.ownId = none := by decide

/-- Vectors V-D7 and V-D8 (no data) and V-D3: the three outcomes of a complete frame. -/
theorem test_witness_ReceiveFrame_outcomes :
    (0xFE#8 : Byte) = checksumByte [] ∧ (0xFF#8 : Byte) ≠ checksumByte [] ∧
    pendingAtRead (listening 9600 (some 0x3C#8) [0x55#8, 0x3C#8, 0xFE#8]) = 0x55#8 :: 0x3C#8 :: [] ++ 0xFE#8 :: [] ∧
    (0x12#8 : Byte) ≠ 0x13#8 ∧ (listening 9600 (some 0x3C#8) []).cfg.ownId = some 0x3C#8 := by decide

/-- The longest frame: 258 bytes are pending, and the checksum is that of the last row of table V-C1. -/
theorem test_witness_ReceiveFrame_longest :
    pendingAtRead (listening 9600 (some 0x12#8) (0x55#8 :: 0x12#8 :: bytes255 ++ [0xFD#8])) =
      0x55#8 :: 0x12#8 :: bytes255 ++ 0xFD#8 :: [] ∧
    0xFD#8 = checksumByte bytes255 ∧ bytes255.length = 255 := ⟨rfl, by decide +kernel, by decide +kernel⟩

theorem test_witness_PrepareReceive :
    (bench 19200 none false).phase = .idle ∧ (listening 19200 none []).phase = .idle := by decide

/-- HeldReceiveGoesOnWhenBytesArrive: exactly the missing bytes arrive. -/
theorem test_witness_HeldReceiveGoesOn :
    IsReceive (.receiveFrame 0) ∧
    ∃ h, exec (.receiveFrame 0) { listening 9600 (some 0x12#8) [0x55#8] with inputs := [.arrive [0x12#8, 0xFE#8]] } = .next h ∧
      h.phase = .rxRead ∧ bytesAsked (.receiveFrame 0) ≤ [0x55#8].length + [0x12#8, 0xFE#8].length :=
  ⟨trivial, _, rfl, rfl, by decide⟩

/-- TimeoutOnlyWhileShortOfBytes: all of `rx` consumed, none of it, an infinite timeout, and enough bytes pending. -/
theorem test_witness_Timeout :
    held.phase = .rxRead ∧ readCount held.work = some 6 ∧ held.rx.length < 6 ∧ 3 ≤ held.rx.length ∧ 0 ≤ held.rx.length ∧
    held.params.rxTimeout ≠ none ∧
    { held with params := ⟨false, .high, none⟩ : State }.params.rxTimeout = none ∧
    6 ≤ heldComplete.rx.length := by decide

theorem test_witness_Timeout_goes_on :
    ∃ t, step { heldComplete with inputs := [.timeout 0] } = .next t :=
  ⟨_, rfl⟩

/-- ReceiveConsumesExactlyItsBytes, ReceivesLeaveTheRestUnchanged, ResultDataOnlyWithOk, OnlyListedStatusesAreReturned,
EarlierStatusIsNotRead and OpenCloseDiscipline: receives and a prepareReceive that go on to an idle state, and one that is held. -/
theorem test_witness_ReceivesGoOn :
    (∃ t, exec (.receiveFrame 0) (listening 9600 (some 0x12#8) [0x55#8, 0x12#8, 0xFE#8]) = .next t ∧ t.phase = .idle) ∧
    (∃ t, exec (.receiveRaw 0) (listening 9600 none []) = .next t ∧ t.phase = .idle) ∧
    (∃ t, exec (.receiveRaw 2) (listening 9600 none [0x55#8]) = .next t ∧ t.phase = .rxRead) ∧
    (∃ t, exec .prepareReceive (bench 9600 none false) = .next t ∧ t.phase = .idle) ∧
    ¬ IsSend (.receiveFrame 0) ∧ ¬ IsSend (.receiveRaw 0) ∧ ¬ IsSend .prepareReceive ∧
    IsReceive (.receiveFrame 0) ∧ IsReceive (.receiveRaw 0) ∧ (listening 9600 none []).work.rxbuf.wf = true :=
  ⟨⟨_, rfl, rfl⟩, ⟨_, rfl, rfl⟩, ⟨_, rfl, rfl⟩, ⟨_, rfl, rfl⟩, id, id, id, trivial, trivial, rfl⟩

/-- SynchByteIsNotChecked: vector V-D7 goes on, the byte is replaced in the environment's script, and the refused half (a closed
transport with bytes pending). -/
theorem test_witness_SynchByte :
    pendingAtRead (listening 9600 (some 0x3C#8) [0x55#8, 0x3C#8, 0xFE#8]) = 0x55#8 :: [0x3C#8, 0xFE#8] ∧
    (Draws.mk [] 0 [] 0 [[0x00#8, 0x3C#8, 0xFE#8]]).rxAtRead [0x77#8] = 0x00#8 :: [0x3C#8, 0xFE#8] ∧
    (∃ t, exec (.receiveFrame 0) (listening 9600 (some 0x3C#8) [0x55#8, 0x3C#8, 0xFE#8]) = .next t ∧ t.phase = .idle) ∧
    ∃ r, exec (.receiveFrame 0) { bench 9600 none false with rx := [0x55#8, 0x3C#8] } = .refused r :=
  ⟨rfl, rfl, ⟨_, rfl, rfl⟩, ⟨_, rfl⟩⟩

/-- The two round trips: vectors V-E2 with V-D7, and Program 4; and the longest operand. -/
theorem test_witness_RoundTrips :
    (bench 9600 none false).phase = .idle ∧ (listening 9600 (some 0x3C#8) []).cfg.ownId = some 0x3C#8 ∧
    (listening 9600 (some 0x3C#8) []).tp ≠ .closed ∧ (listening 9600 (some 0x3C#8) []).work.rxbuf.wf = true ∧
    (listening 9600 (some 0x3C#8) [0x55#8, 0x3C#8, 0xFE#8]).rx ≠ [] ∧
    pendingAtRead (listening 9600 (some 0x3C#8) [0x55#8, 0x3C#8, 0xFE#8]) = [0x55#8, 0x3C#8, 0xFE#8] ++ [] ∧
    0 < [0xDE#8, 0xAD#8, 0xBE#8, (0xEF#8 : Byte)].length ∧ 0 < bytes255.length ∧ bytes255.length ≤ 255 := by decide +kernel

/-- OperationsAreRefusedExactlyAsStated: each refusal occurs. -/
theorem test_witness_Refusals :
    refusalIn (exec .prepareReceive held) = some .reentrantCall ∧
    refusalIn (exec (.receiveRaw 256) (listening 9600 none [])) = some .operandOutOfDomain ∧
    refusalIn (exec (.sendRaw bytes256) (bench 9600 none false)) = some .operandOutOfDomain ∧
    refusalIn (exec (.receiveFrame 255) (bench 9600 none false)) = some .transportNotListening ∧
    refusalIn (exec (.receiveFrame 0) (listening 9600 none [0x55#8, 0x12#8, 0xFE#8])) = some .noIdentifierConfigured ∧
    refusalIn (step (calling ⟨0b111_00000000_00000000#19, []⟩ (bench 9600 none false))) = some .reservedCommand ∧
    refusalIn (step (calling ⟨0b011_00000000_00000010#19, [0xDE#8]⟩ (bench 9600 none false))) = some .operandOutOfDomain := by decide +kernel

/-- KeptContractIsAnswered: a contract for each kind of operation, the first at the largest operand. -/
theorem test_witness_Contract :
    Contract (.receiveFrame 255) (listening 9600 (some 0x12#8) [0x55#8]) ∧ Contract (.receiveRaw 0) (listening 9600 none []) ∧
    Contract (.sendFrame 0x12#8 bytes255) (bench 9600 none false) ∧ Contract .prepareReceive (bench 9600 none false) :=
  ⟨⟨by decide, by decide, by decide, by decide⟩, ⟨by decide, by decide, by decide, by decide⟩,
    ⟨by decide +kernel, by decide, by decide, by decide⟩, ⟨by decide, by decide, by decide, by decide⟩⟩

theorem test_witness_ReceiveAfterSend :
    IsSend (.sendHeader 0x22#8) ∧ IsReceive (.receiveFrame 255) ∧ (Instr.receiveFrame 255).WellFormed ∧
    (bench 19200 (some 0x22#8) false).cfg.ownId ≠ none ∧
    ∃ t, exec (.sendHeader 0x22#8) (bench 19200 (some 0x22#8) false) = .next t :=
  ⟨trivial, trivial, by decide, by decide, _, rfl⟩

theorem test_witness_StepRuns :
    (calling ⟨0b110_00000000_00000000#19, []⟩ (bench 9600 none false)).phase = .idle ∧
    (calling ⟨0b110_00000000_00000000#19, []⟩ (bench 9600 none false)).inputs = .call ⟨0b110_00000000_00000000#19, []⟩ :: [] ∧
    decode ⟨0b110_00000000_00000000#19, []⟩ = .instr .prepareReceive ∧
    decodeTableWord 24 0x60000 = some .prepareReceive := by decide

/-- EnvironmentMovesOnlyTheStream and HeldOperationIsNotCutShort: an idle engine, and a read that is held. -/
theorem test_witness_Environment :
    (bench 9600 none false).phase = .idle ∧ (bench 9600 none false).inputs = [] ∧
    held.phase = .rxRead ∧ readCount held.work = some 6 ∧ held.rx.length < 6 ∧
    { held with inputs := [.arrive []] : State }.inputs = .arrive [] :: [] ∧
    { held with inputs := [.rxBecomes []] : State }.inputs = .rxBecomes [] :: [] ∧
    { held with inputs := [.reset] : State }.inputs = .reset :: [] ∧
    { held with inputs := [.destroy] : State }.inputs = .destroy :: [] := by decide

theorem test_witness_Reset :
    { listening 9600 none [] with inputs := [.reset] : State }.phase = .idle ∧
    { listening 9600 none [] with inputs := [.destroy] : State }.phase = .idle := by decide

/-- The invariant holds in a state that no reset leaves: a read is held. -/
theorem test_witness_Inv : Inv held :=
  { positive := by decide, buffer := by decide, sequenced := Or.inr (by decide), written := by decide,
    transport := by decide, driven := by decide, released := by decide,
    woken := fun _ h => by cases h
    untouched := fun _ => by decide, rate := by decide, result := by decide }

/-- A step goes on from a state with the invariant. -/
theorem test_witness_Inv_step :
    Inv { held with inputs := [.timeout 3] } ∧ ∃ t, step { held with inputs := [.timeout 3] } = .next t :=
  ⟨{ test_witness_Inv with }, _, rfl⟩

/-- HistoryIsOnlyAppendedTo: a step that is no reset, and one that is. -/
theorem test_witness_History :
    (∃ t, step { held with inputs := [.timeout 3] } = .next t) ∧ (∀ later, [Input.timeout 3] ≠ .reset :: later) ∧
    ∃ t, step { listening 9600 none [] with inputs := [.reset] } = .next t :=
  ⟨⟨_, rfl⟩, (fun _ h => nomatch h), ⟨_, rfl⟩⟩

/-- RunOutcomeIsTheResultsAndTheFinalState and OneResultPerOperation: a run with an outcome from an idle state and one from a held
read, one that is refused, one of no step, and steps that end an operation and that do not. -/
theorem test_witness_RunOutcome :
    (runOutcome 2 emptied).isSome = true ∧ (runOutcome 1 heldComplete).isSome = true ∧ Input.destroy ∉ emptied.inputs ∧
    emptied.phase = .idle ∧ heldComplete.phase = .rxRead ∧ Input.destroy ∉ heldComplete.inputs ∧
    (runOutcome 0 (bench 9600 none false)).isSome = true ∧
    refusalIn (Host.Core.run core 1 (calling ⟨0b111_00000000_00000000#19, []⟩ (bench 9600 none false))) = some .reservedCommand := by
  decide

theorem test_witness_RunOutcome_step :
    (∃ t, step heldComplete = .next t ∧ t.phase = .idle ∧ (runOutcome 0 t).isSome = true) ∧
    (∃ t, step emptied = .next t ∧ t.phase ≠ .idle ∧ (runOutcome 1 t).isSome = true) ∧
    ∃ t, step (bench 9600 none false) = .next t ∧ t.phase = .idle ∧ (bench 9600 none false).inputs = [] ∧
      (runOutcome 0 t).isSome = true :=
  ⟨⟨_, rfl, by decide, by decide⟩, ⟨_, rfl, by decide, by decide⟩, _, rfl, by decide, by decide, by decide⟩

/-- WorkingStateIsInvisible: two idle engines that differ in the working registers. -/
theorem test_witness_WorkingState :
    SameButWork (bench 9600 none false) { bench 9600 none false with work := { Work.reset with acc := 0x5A#8, len := 7#8 } } ∧
    (bench 9600 none false).phase = .idle ∧ (bench 9600 none false).work.rxbuf.wf = true :=
  ⟨rfl, by decide, by decide⟩

/-- BufferReadsBackWhatWasWritten: the last two offsets of the buffer, 256 and 257. -/
theorem test_witness_Buffer :
    (Memory.mk [(0, 0x55#8), (257, 0x9E#8)]).wf = true ∧ 256 + [0xAA#8, (0x55#8 : Byte)].length ≤ 258 := by decide

/-- A written zero is not listed (log entry 7). -/
theorem test_buffer_zero_is_not_listed : (Memory.mk [(1, 0x12#8)]).write 1 0x00#8 = ⟨[]⟩ := by decide

end Sys2Proof.Tests
end

section
/-! PROOFS. The family of 00_scope.md: the receive frame buffer (R14) and the engine's creation arguments (R5 to R10). -/

namespace Sys2Proof.Proofs.Scope

open Sys2Proof.Machine

/-- The slice that `MemWrite` wrote, read back whole: the writes behind its first byte leave that byte alone. -/
theorem memRead_memWrite_self {m : Memory} (h : m.wf = true) {a : Nat} {vs : List Byte}
    (hb : a + vs.length ≤ bufferSize) : memRead (memWrite m a vs) a vs.length = vs := by
  induction vs generalizing m a with
  | nil => rfl
  | cons v vs ih =>
    simp only [List.length_cons] at hb
    have hw := Memory.wf_write h (x := a) (by omega) v
    have hfirst : (memWrite (m.write a v) (a + 1) vs).read a = v := by
      rw [memWrite_read_outside hw (by omega) (by omega), Memory.read_write_same h]
    rw [memWrite, List.length_cons, memRead, hfirst, ih hw (by omega)]

/-- Settles O49, from the laws of `MemWrite`: read after write, the bytes outside the slice, and the canonical form. -/
theorem bufferReadsBackWhatWasWritten : Obligations.BufferReadsBackWhatWasWritten :=
  fun _ _ _ h hb => ⟨memRead_memWrite_self h hb, fun _ hx => memWrite_read_outside h hb hx, memWrite_wf h hb⟩

/-- BAUD is positive as R5 asks, whatever the free constant behind it. -/
theorem config_baud_pos : 0 < Config.baud := Nat.succ_pos _

/-- Settles O6, with the creation arguments that `State.reset` names. -/
theorem resetIsACreation : Obligations.ResetIsACreation :=
  ⟨⟨Config.baud, Config.ownId⟩, ⟨Config.wakeCtrl, Config.wakeActive, Config.rxTimeout⟩,
    rfl, rfl, config_baud_pos, rfl, rfl, rfl, rfl⟩

end Sys2Proof.Proofs.Scope
end

section
/-! PROOFS. The family of 10_state.md: what the events of a step say of the collaborators (R32 to R34), the invariant, the
configuration (R24), the earlier status (R31) and the working registers (R37). -/

namespace Sys2Proof.Proofs.EngineState

open Sys2Proof.Machine Sys2Proof.Safety

/-! ## Reading a history in two parts -/

theorem writtenBytes_append (a b : List Event) : writtenBytes (a ++ b) = writtenBytes a ++ writtenBytes b :=
  List.filterMap_append

theorem transportOf_append (a b : List Event) : transportOf (a ++ b) = b.foldl transportAfter (transportOf a) :=
  List.foldl_append

theorem lineOf_append (a b : List Event) : lineOf (a ++ b) = b.foldl lineAfter (lineOf a) :=
  List.foldl_append

/-- The level before a history counts only where the history drives none. -/
theorem foldl_wakeAfter (l : Option Level) (h : List Event) : h.foldl wakeAfter l = (wakeOf h).or l := by
  induction h generalizing l with
  | nil => rfl
  | cons e es ih =>
    rw [List.foldl_cons, wakeOf, List.foldl_cons, ih, ih (wakeAfter none e), Option.or_assoc]
    congr 1
    unfold wakeAfter
    split <;> rfl

theorem wakeOf_append (a b : List Event) : wakeOf (a ++ b) = (wakeOf b).or (wakeOf a) := by
  rw [wakeOf, List.foldl_append]
  exact foldl_wakeAfter _ b

/-! ## What a step without a reset does to the collaborators -/

/-- From `s` to `t` the events `new` were added to the history, the configuration and the parameters stayed, and the collaborators
are what those events make of them (10_state.md R24, R32 to R34). -/
structure Emitted (new : List Event) (s t : State) : Prop where
  cfg : t.cfg = s.cfg
  params : t.params = s.params
  hist : t.hist = s.hist ++ new
  tx : t.tx = s.tx ++ writtenBytes new
  tp : t.tp = new.foldl transportAfter s.tp
  line : t.line = new.foldl lineAfter s.line
  released : s.line = .high → t.line = .high
  wake : t.wake = (wakeOf new).getD s.wake
  untouched : s.params.wakeCtrl = false → wakeOf new = none
  rate : new.all (atRate s.cfg.baud) = true

/-- Two parts of a step, one after the other. -/
theorem Emitted.trans {a b : List Event} {s t u : State} (h : Emitted a s t) (h' : Emitted b t u) : Emitted (a ++ b) s u where
  cfg := h'.cfg.trans h.cfg
  params := h'.params.trans h.params
  hist := by rw [h'.hist, h.hist, List.append_assoc]
  tx := by rw [h'.tx, h.tx, writtenBytes_append, List.append_assoc]
  tp := by rw [h'.tp, h.tp, List.foldl_append]
  line := by rw [h'.line, h.line, List.foldl_append]
  released := h'.released ∘ h.released
  wake := by rw [h'.wake, h.wake, wakeOf_append]; cases wakeOf b <;> rfl
  untouched hw := by rw [wakeOf_append, h.untouched hw, h'.untouched (h.params ▸ hw)]; rfl
  rate := by rw [List.all_append, h.rate, ← h.cfg, h'.rate]; rfl

/-- The collaborators and the history went from `s` to `t` by events alone. -/
def Emits (s t : State) : Prop := ∃ new, Emitted new s t

variable {s t : State}

/-- The engine's own registers, what is pending and the model's scripts change with no event. -/
theorem emits_engine (s : State) (work : Work) (phase : Phase) (status : Status) (rdata : Option (List Byte)) (rx : List Byte)
    (inputs : List Input) (draws : Draws) :
    Emits s { s with work := work, phase := phase, status := status, rdata := rdata, rx := rx, inputs := inputs, draws := draws } :=
  ⟨[], by constructor <;> simp [writtenBytes, wakeOf]⟩

theorem Emits.trans {u : State} (h : Emits s t) (h' : Emits t u) : Emits s u :=
  let ⟨_, ha⟩ := h
  let ⟨_, hb⟩ := h'
  ⟨_, ha.trans hb⟩

/-! ### One rule per operation on the collaborators, applied last to first -/

theorem Emits.enter (p : Phase) (h : Emits s t) : Emits s (enter p t) := h.trans (emits_engine ..)

theorem Emits.finish (status : Status) (rdata : Option (List Byte)) (h : Emits s t) : Emits s (finish status rdata t) :=
  h.trans (emits_engine ..)

theorem Emits.checksumPhase (data : List Byte) (h : Emits s t) : Emits s (checksumPhase data t) := by
  rw [checksumPhase_eq]
  exact h.trans (emits_engine ..)

theorem Emits.emitCfg (h : Emits s t) : Emits s (emitCfg t) :=
  h.trans ⟨[.cfg t.cfg.baud], by constructor <;> simp [writtenBytes, transportAfter, lineAfter, wakeOf, wakeAfter, atRate]⟩

theorem Emits.emitClose (h : Emits s t) : Emits s (emitClose t) :=
  h.trans ⟨[.close], by constructor <;> simp [writtenBytes, transportAfter, lineAfter, wakeOf, wakeAfter, atRate]⟩

theorem Emits.emitWr (v : Byte) (h : Emits s t) : Emits s (emitWr v t).1 :=
  h.trans ⟨[.wr v t.draws.nextAck],
    by constructor <;> simp [writtenBytes, transportAfter, lineAfter, wakeOf, wakeAfter, atRate]⟩

theorem Emits.emitData (i : Nat) (data : List Byte) (h : Emits s t) : Emits s (emitData i data t).1 := by
  induction data generalizing i t with
  | nil => exact h
  | cons b bs ih => exact ih (i + 1) ((h.trans (emits_engine ..) : Emits s (setIdx i t)).emitWr b)

theorem Emits.emitAvail (h : Emits s t) : Emits s (emitAvail t) :=
  h.trans ⟨[.avail (!t.rx.isEmpty)],
    by constructor <;> simp [writtenBytes, transportAfter, lineAfter, wakeOf, wakeAfter, atRate]⟩

/-- A break leaves the line high, whatever it was (43_synch_break.md R117). -/
theorem Emits.synchBreak (bits : Nat) (h : Emits s t) : Emits s (synchBreak bits t) := by
  rw [synchBreak_eq]
  exact h.trans ⟨[.line .tx .low, .delay (t.cfg.hold bits), .line .tx .high],
    by constructor <;> simp [writtenBytes, transportAfter, lineAfter, wakeOf, wakeAfter, atRate]⟩

/-- The wrap touches the wake line only with `WAKE_CTRL` (00_scope.md R9). -/
theorem Emits.wakeBefore (h : Emits s t) : Emits s (wakeBefore t) := by
  rw [wakeBefore_eq]
  split
  next hw =>
    exact h.trans ⟨[.line .wake t.params.wakeActive, .delay Config.wakeDelayUs],
      by constructor <;> simp [writtenBytes, transportAfter, lineAfter, wakeOf, wakeAfter, atRate, hw]⟩
  next => exact h

theorem Emits.sleepAfter (h : Emits s t) : Emits s (sleepAfter t) := by
  rw [sleepAfter_eq]
  split
  next hw =>
    exact h.trans ⟨[.line .wake (opposite t.params.wakeActive)],
      by constructor <;> simp [writtenBytes, transportAfter, lineAfter, wakeOf, wakeAfter, atRate, hw]⟩
  next => exact h

/-! ### The operations -/

theorem sendFrameBody_emits (id : Byte) (data : List Byte) (s : State) : Emits s (sendFrameBody id data s) :=
  .finish _ _ <| .sleepAfter <| .emitClose <| .enter _ <| .emitWr _ <| .enter _ <| .emitData _ _ <| .enter _ <| .emitWr _ <|
    .enter _ <| .emitWr _ <| .enter _ <| .emitCfg <| .enter _ <| .synchBreak _ <| .enter _ <| .wakeBefore <| .checksumPhase _ <|
    emits_engine ..

theorem sendHeaderBody_emits (id : Byte) (s : State) : Emits s (sendHeaderBody id s) :=
  .finish _ _ <| .emitClose <| .enter _ <| .emitWr _ <| .enter _ <| .emitWr _ <| .enter _ <| .emitCfg <| .enter _ <|
    .synchBreak _ <| .enter _ <| emits_engine ..

theorem sendResponseBody_emits (data : List Byte) (s : State) : Emits s (sendResponseBody data s) :=
  .finish _ _ <| .emitClose <| .enter _ <| .emitWr _ <| .enter _ <| .emitData _ _ <| .enter _ <| .emitCfg <| .enter _ <|
    .checksumPhase _ <| emits_engine ..

theorem sendRawBody_emits (data : List Byte) (s : State) : Emits s (sendRawBody data s) :=
  .finish _ _ <| .emitClose <| .enter _ <| .emitData _ _ <| .enter _ <| .emitCfg <| .enter _ <| .synchBreak _ <| .enter _ <|
    emits_engine ..

theorem prepareReceiveBody_emits (s : State) : Emits s (prepareReceiveBody s) :=
  .finish _ _ <| .emitCfg <| .enter _ <| emits_engine ..

/-- A read is one event that touches neither `tx`, `tp` nor a line, whatever it answers. -/
theorem emits_read {k : Nat} {answer : RdAnswer} (hcfg : t.cfg = s.cfg) (hparams : t.params = s.params) (htp : t.tp = s.tp)
    (htx : t.tx = s.tx) (hline : t.line = s.line) (hwake : t.wake = s.wake) (hhist : t.hist = s.hist ++ [.rd k answer]) :
    Emits s t :=
  ⟨_, { cfg := hcfg, params := hparams, hist := hhist, tx := by simp [htx, writtenBytes], tp := htp, line := hline,
        released := (hline.trans ·), wake := hwake, untouched := fun _ => rfl, rate := rfl }⟩

theorem completeRead_emits {k : Nat} (h : completeRead k s = .next t) : Emits s t :=
  have d := completeRead_next h
  emits_read d.cfg d.params d.tp d.tx d.line d.wake d.hist

theorem timeoutRead_emits (k j : Nat) (s : State) : Emits s (timeoutRead k j s) :=
  emits_read rfl rfl rfl rfl rfl rfl rfl

/-- A receive polls, and then reads if it can. -/
theorem receiveDid_emits {k : Nat} (h : ReceiveDid k s t) : Emits s t := by
  have hpoll : Emits s (emitAvail (enter .rxPoll s)) := .emitAvail (emits_engine ..)
  cases h with
  | nothing _ ht => exact ht ▸ hpoll.finish _ _
  | held _ _ ht => exact ht ▸ hpoll.trans (emits_engine ..)
  | read _ _ ht => exact (hpoll.trans (emits_engine ..)).trans (completeRead_emits ht)

theorem exec_emits {i : Instr} (h : exec i s = .next t) : Emits s t := by
  cases i with
  | sendFrame id data =>
    obtain ⟨-, -, rfl⟩ := execSendFrame_next.mp h
    exact sendFrameBody_emits id data s
  | sendHeader id =>
    obtain ⟨-, rfl⟩ := execSendHeader_next.mp h
    exact sendHeaderBody_emits id s
  | sendResponse data =>
    obtain ⟨-, -, rfl⟩ := execSendResponse_next.mp h
    exact sendResponseBody_emits data s
  | sendRaw data =>
    obtain ⟨-, -, rfl⟩ := execSendRaw_next.mp h
    exact sendRawBody_emits data s
  | receiveFrame n =>
    obtain ⟨-, -, -, hdid⟩ := execReceiveFrame_next h
    exact (emits_engine ..).trans (receiveDid_emits hdid)
  | receiveRaw n =>
    obtain ⟨-, -, -, hdid⟩ := execReceiveRaw_next h
    exact (emits_engine ..).trans (receiveDid_emits hdid)
  | prepareReceive =>
    obtain ⟨-, rfl⟩ := execPrepareReceive_next.mp h
    exact prepareReceiveBody_emits s

/-- A step is a reset between operations, or it moves the collaborators by events. -/
theorem step_emits (h : step s = .next t) :
    (∃ later, s.phase = .idle ∧ s.inputs = .reset :: later ∧ t = resetEngine { s with inputs := later }) ∨ Emits s t := by
  cases step_cases h with
  | waited _ ht => exact .inr (ht ▸ emits_engine ..)
  | ran _ _ _ _ _ _ ht => exact .inr ((emits_engine ..).trans (exec_emits ht))
  | arrived _ _ _ ht => exact .inr (ht ▸ emits_engine ..)
  | changed _ _ _ ht => exact .inr (ht ▸ emits_engine ..)
  | ignored _ _ _ ht => exact .inr (ht ▸ emits_engine ..)
  | wasReset later hp hin ht => exact .inl ⟨later, hp, hin, ht⟩
  | destroyed _ _ ht => exact .inr (ht ▸ emits_engine ..)
  | completed _ _ _ _ ht => exact .inr (completeRead_emits ht)
  | timedOut _ _ _ _ _ _ _ _ ht => exact .inr (ht ▸ (emits_engine ..).trans (timeoutRead_emits ..))

/-! ## What a step leaves of the engine -/

/-- The engine's own part of the invariant: the buffer, the sequencer and the result latches. -/
structure Settled (s : State) : Prop where
  buffer : s.work.rxbuf.wf = true
  sequenced : Sequenced s
  result : s.rdata ≠ none → s.status = .ok

theorem settled_of_inv (h : Inv s) : Settled s := ⟨h.buffer, h.sequenced, h.result⟩

/-- An operation that ends without data and reads nothing leaves the engine settled. -/
theorem settled_of_ended (hs : Settled s) (hbuf : t.work.rxbuf = s.work.rxbuf) (hp : t.phase = .idle) (hr : t.rdata = none) :
    Settled t :=
  ⟨hbuf ▸ hs.buffer, .inl hp, (absurd hr ·)⟩

/-- A read asks for no more bytes than the buffer holds (30_encoding.md R75). -/
theorem readCount_le {w : Work} {k : Nat} (h : readCount w = some k) : k ≤ bufferSize := by
  have hlen := w.len.isLt
  cases hop : w.op <;> simp only [readCount, hop, Config.rxOverhead, Option.some.injEq, reduceCtorEq] at h
  all_goals simp only [bufferSize]; omega

/-- The bytes of a read, which fill the buffer from offset 0, leave it in its canonical form. -/
theorem completeRead_settled {k : Nat} (hs : Settled s) (hk : k ≤ bufferSize) (h : completeRead k s = .next t) : Settled t :=
  have d := completeRead_next h
  have hbytes : 0 + (s.rx.take k).length ≤ bufferSize := by rw [List.length_take]; omega
  ⟨d.rxbuf ▸ memWrite_wf hs.buffer hbytes, .inl d.phase, d.result⟩

/-- A receive that goes on ends, or holds its read with the transport open. -/
theorem receiveDid_settled {k : Nat} (hs : Settled s) (htp : s.tp ≠ .closed)
    (hop : s.work.op = .receiveFrame ∨ s.work.op = .receiveRaw) (hk : k ≤ bufferSize) (h : ReceiveDid k s t) : Settled t := by
  have hheld : Settled (enter .rxRead (awaitRead (emitAvail (enter .rxPoll s)))) :=
    ⟨hs.buffer, .inr ⟨rfl, htp, hop⟩, hs.result⟩
  cases h with
  | nothing _ ht => exact ht ▸ settled_of_ended hs rfl rfl rfl
  | held _ _ ht => exact ht ▸ hheld
  | read _ _ ht => exact completeRead_settled hheld hk ht

theorem exec_settled {i : Instr} (hs : Settled s) (h : exec i s = .next t) : Settled t := by
  cases i with
  | sendFrame id data =>
    obtain ⟨-, -, rfl⟩ := execSendFrame_next.mp h
    rw [sendFrameBody_eq]
    exact settled_of_ended hs rfl rfl rfl
  | sendHeader id =>
    obtain ⟨-, rfl⟩ := execSendHeader_next.mp h
    exact settled_of_ended hs rfl rfl rfl
  | sendResponse data =>
    obtain ⟨-, -, rfl⟩ := execSendResponse_next.mp h
    rw [sendResponseBody_eq]
    exact settled_of_ended hs rfl rfl rfl
  | sendRaw data =>
    obtain ⟨-, -, rfl⟩ := execSendRaw_next.mp h
    rw [sendRawBody_eq]
    exact settled_of_ended hs rfl rfl rfl
  | receiveFrame n =>
    obtain ⟨hp, hn, htp, hdid⟩ := execReceiveFrame_next h
    exact receiveDid_settled (s := latchLen .receiveFrame n s) ⟨hs.buffer, .inl hp, hs.result⟩ htp (.inl rfl)
      (by simp only [bufferSize]; omega) hdid
  | receiveRaw n =>
    obtain ⟨hp, hn, htp, hdid⟩ := execReceiveRaw_next h
    exact receiveDid_settled (s := latchLen .receiveRaw n s) ⟨hs.buffer, .inl hp, hs.result⟩ htp (.inr rfl)
      (by simp only [bufferSize]; omega) hdid
  | prepareReceive =>
    obtain ⟨-, rfl⟩ := execPrepareReceive_next.mp h
    exact settled_of_ended hs rfl rfl rfl

theorem step_settled (hs : Settled s) (h : step s = .next t) : Settled t := by
  have henv (rx : List Byte) (inputs : List Input) : Settled { s with rx := rx, inputs := inputs } :=
    ⟨hs.buffer, hs.sequenced, hs.result⟩
  cases step_cases h with
  | waited _ ht => exact ht ▸ hs
  | ran _ rest _ _ _ _ ht => exact exec_settled (henv s.rx rest) ht
  | arrived _ _ _ ht => exact ht ▸ henv ..
  | changed _ _ _ ht => exact ht ▸ henv ..
  | ignored _ rest _ ht => exact ht ▸ henv s.rx rest
  | wasReset _ _ _ ht => exact ht ▸ ⟨rfl, .inl rfl, (absurd rfl ·)⟩
  | destroyed _ _ ht => exact ht ▸ henv s.rx []
  | completed _ _ hk _ ht => exact completeRead_settled hs (readCount_le hk) ht
  | timedOut _ _ _ _ _ _ _ _ ht => exact ht ▸ settled_of_ended hs rfl rfl rfl

/-! ## The invariant -/

/-- What the events make of the collaborators is what the longer history says of them. -/
theorem Emitted.inv {new : List Event} (h : Emitted new s t) (hi : Inv s) (ht : Settled t) : Inv t where
  positive := h.cfg ▸ hi.positive
  buffer := ht.buffer
  sequenced := ht.sequenced
  written := by rw [h.tx, h.hist, writtenBytes_append, hi.written]
  transport := by rw [h.tp, h.hist, transportOf_append, hi.transport]
  driven := by rw [h.line, h.hist, lineOf_append, hi.driven]
  released := h.released hi.released
  woken l hl := by
    rw [h.hist, wakeOf_append] at hl
    rw [h.wake]
    cases hnew : wakeOf new with
    | none => exact hi.woken l (by simpa [hnew] using hl)
    | some l' => simpa [hnew] using hl
  untouched hw := by
    have hw' : s.params.wakeCtrl = false := h.params ▸ hw
    rw [h.hist, wakeOf_append, h.untouched hw', hi.untouched hw']
    rfl
  rate := by rw [h.hist, h.cfg, List.all_append, hi.rate, h.rate]; rfl
  result := ht.result

/-- An engine just created, of which only `BAUD` is not fixed, meets the invariant, whatever stands on the wake line. -/
theorem inv_resetEngine (h : 0 < s.cfg.baud) : Inv (resetEngine s) where
  positive := h
  buffer := rfl
  sequenced := .inl rfl
  written := rfl
  transport := rfl
  driven := rfl
  released := rfl
  woken := nofun
  untouched _ := rfl
  rate := rfl
  result h := absurd rfl h

/-- Settles O42: a reset begins the history anew, and every other step only adds events to it. -/
theorem everyStepKeepsTheInvariant : Obligations.EveryStepKeepsTheInvariant := by
  intro s t hi h
  rcases step_emits h with ⟨_, -, -, rfl⟩ | ⟨_, hnew⟩
  · exact inv_resetEngine hi.positive
  · exact hnew.inv hi (step_settled (settled_of_inv hi) h)

/-- Settles O41: `State.reset` is its own reset. -/
theorem resetMeetsTheInvariant : Obligations.ResetMeetsTheInvariant :=
  inv_resetEngine (s := State.reset) Scope.config_baud_pos

/-! ## Faults -/

/-- What a step between operations is. -/
theorem step_idle (hp : s.phase = .idle) : step s = stepIdle s := by
  simp only [step, sequenceStep, hp]

/-- A receive operation has a read to make. -/
theorem readCount_ne_none {w : Work} (hop : w.op = .receiveFrame ∨ w.op = .receiveRaw) : readCount w ≠ none := by
  rcases hop with h | h <;> simp [readCount, h]

theorem completeRead_ne_fault {k : Nat} {f : Fault} (hop : s.work.op = .receiveFrame ∨ s.work.op = .receiveRaw) :
    completeRead k s ≠ .fault f :=
  fun h => readCount_ne_none hop (completeRead_stops.1 f h)

theorem startReceive_ne_fault {k : Nat} {f : Fault} (hop : s.work.op = .receiveFrame ∨ s.work.op = .receiveRaw) :
    startReceive k s ≠ .fault f := by
  unfold startReceive readOrHold
  split
  next => nofun
  next =>
    dsimp only
    split_ifs
    · nofun
    · exact completeRead_ne_fault hop
    · nofun

/-- Only a receive could meet the fault, and its operand latch names the receive. -/
theorem exec_ne_fault (i : Instr) (s : State) (f : Fault) : exec i s ≠ .fault f := by
  cases i
  case receiveFrame =>
    dsimp only [exec, execReceiveFrame]
    split
    · nofun
    · exact startReceive_ne_fault (.inl rfl)
  case receiveRaw =>
    dsimp only [exec, execReceiveRaw]
    split
    · nofun
    · exact startReceive_ne_fault (.inr rfl)
  all_goals
    dsimp only [exec, execSendFrame, execSendHeader, execSendResponse, execSendRaw, execPrepareReceive]
    split <;> nofun

theorem runCall_ne_fault (c : Command) (s : State) (f : Fault) : runCall c s ≠ .fault f := by
  unfold runCall
  split
  · exact exec_ne_fault _ _ _
  · nofun

theorem stepIdle_ne_fault (s : State) (f : Fault) : stepIdle s ≠ .fault f := by
  unfold stepIdle
  split
  · nofun
  · exact runCall_ne_fault _ _ _
  all_goals nofun

theorem stepWaiting_ne_fault (k : Nat) (s : State) (f : Fault) : stepWaiting k s ≠ .fault f := by
  unfold stepWaiting
  split
  case h_5 => split_ifs <;> nofun -- the timeout, whose outcome turns on `RX_TIMEOUT`
  all_goals nofun

theorem stepReading_ne_fault {f : Fault} (hop : s.work.op = .receiveFrame ∨ s.work.op = .receiveRaw) :
    stepReading s ≠ .fault f := by
  unfold stepReading
  split
  next h => exact absurd h (readCount_ne_none hop)
  next k _ =>
    split_ifs
    · exact completeRead_ne_fault hop
    · exact stepWaiting_ne_fault _ _ _

/-- Settles O43: the two phases in which the sequencer can stand lead to no fault. -/
theorem invariantRulesOutFaults : Obligations.InvariantRulesOutFaults := by
  intro s f hi
  rcases hi.sequenced with hp | ⟨hp, -, hop⟩
  · rw [step_idle hp]
    exact stepIdle_ne_fault s f
  · rw [step_reading hp]
    exact stepReading_ne_fault hop

/-! ## The configuration and the history -/

/-- Settles O44: events leave the configuration and the parameters alone, and a reset takes them over. -/
theorem configurationNeverChanges : Obligations.ConfigurationNeverChanges := by
  refine ⟨fun i s t h => ?_, fun s t h => ?_⟩
  · obtain ⟨_, hnew⟩ := exec_emits h
    exact hnew.cfg
  · rcases step_emits h with ⟨_, -, -, rfl⟩ | ⟨_, hnew⟩
    · exact ⟨rfl, rfl⟩
    · exact ⟨hnew.cfg, hnew.params⟩

/-- An idle engine that meets a reset takes it. -/
theorem step_reset {later : List Input} (hp : s.phase = .idle) (hin : s.inputs = .reset :: later) :
    step s = .next (resetEngine { s with inputs := later }) := by
  simp only [step_idle hp, stepIdle, hin]

/-- Settles O45: every step but a reset moves the collaborators by the events it adds. -/
theorem historyIsOnlyAppendedTo : Obligations.HistoryIsOnlyAppendedTo := by
  intro s t h
  refine ⟨fun hreset => ?_, fun hp later hin => ?_⟩
  · rcases step_emits h with ⟨later, -, hin, -⟩ | ⟨new, hnew⟩
    · exact absurd hin (hreset later)
    · exact ⟨new, hnew.hist, hnew.tx⟩
  · cases (step_reset hp hin).symm.trans h
    exact ⟨rfl, rfl⟩

/-- Settles O5: each value is the one that creation writes down. -/
theorem creationLeavesTheStatedValues : Obligations.CreationLeavesTheStatedValues :=
  fun _ _ => ⟨rfl, rfl, rfl, rfl, rfl, rfl, rfl⟩

/-! ## An earlier status is not read -/

/-- A completed read of receiveFrame on an engine without an identifier (60_exceptions.md R136 (b)). -/
theorem completeRead_noIdentifier {k : Nat} (hop : s.work.op = .receiveFrame) (hid : s.cfg.ownId = none) :
    completeRead k s = .refused .noIdentifierConfigured := by
  simp [completeRead, checkFrame, hop, hid]

/-- A receive on a closed transport (60_exceptions.md R136 (a)). -/
theorem startReceive_closed {k : Nat} (htp : s.tp = .closed) : startReceive k s = .refused .transportNotListening := by
  simp [startReceive, htp]

/-- The state with any other values in the result latches. -/
def withResult (status : Status) (rdata : Option (List Byte)) (s : State) : State := { s with status := status, rdata := rdata }

theorem completeRead_withResult (k : Nat) (status : Status) (rdata : Option (List Byte)) (s : State) :
    completeRead k (withResult status rdata s) = completeRead k s := by
  cases hop : s.work.op
  case receiveFrame =>
    cases hid : s.cfg.ownId with
    | none => rw [completeRead_noIdentifier hop hid, completeRead_noIdentifier (s := withResult status rdata s) hop hid]
    | some own =>
      rw [completeRead_frame hop hid, completeRead_frame (s := withResult status rdata s) hop hid, checkChecksum_eq,
        checkChecksum_eq]
      rfl
  case receiveRaw =>
    rw [completeRead_raw hop, completeRead_raw (s := withResult status rdata s) hop]
    rfl
  all_goals simp [completeRead, withResult, hop]

/-- A receive that ends replaces the result latches, so that nothing of them is left. -/
theorem startReceive_withResult {k : Nat} (status : Status) (rdata : Option (List Byte)) (h : startReceive k s = .next t)
    (hp : t.phase = .idle) : startReceive k (withResult status rdata s) = .next t := by
  obtain ⟨htp, hdid⟩ := startReceive_next h
  obtain ⟨b, htp⟩ : ∃ b, s.tp = .openAt b := by
    cases hs : s.tp with
    | closed => exact absurd hs htp
    | openAt b => exact ⟨b, rfl⟩
  cases hdid with
  | nothing hrx ht => rw [startReceive_empty (s := withResult status rdata s) htp hrx, ht]; rfl
  | held _ _ ht => rw [ht] at hp; cases hp
  | read hrx hk ht =>
    rw [startReceive_pending (s := withResult status rdata s) htp hrx, readOrHold_ready hk, ← ht]
    exact completeRead_withResult k status rdata (enter .rxRead (awaitRead (emitAvail (enter .rxPoll s))))

/-- Settles O47: each operation that ends writes both result latches, and none reads them. -/
theorem earlierStatusIsNotRead : Obligations.EarlierStatusIsNotRead := by
  intro i s t status rdata h hp
  cases i with
  | sendFrame id data =>
    obtain ⟨hidle, hlen, rfl⟩ := execSendFrame_next.mp h
    exact execSendFrame_next.mpr ⟨hidle, hlen, by rw [sendFrameBody_eq, sendFrameBody_eq]; rfl⟩
  | sendHeader id =>
    obtain ⟨hidle, rfl⟩ := execSendHeader_next.mp h
    exact execSendHeader_next.mpr ⟨hidle, rfl⟩
  | sendResponse data =>
    obtain ⟨hidle, hlen, rfl⟩ := execSendResponse_next.mp h
    exact execSendResponse_next.mpr ⟨hidle, hlen, by rw [sendResponseBody_eq, sendResponseBody_eq]; rfl⟩
  | sendRaw data =>
    obtain ⟨hidle, hlen, rfl⟩ := execSendRaw_next.mp h
    exact execSendRaw_next.mpr ⟨hidle, hlen, by rw [sendRawBody_eq, sendRawBody_eq]; rfl⟩
  | receiveFrame n =>
    obtain ⟨hidle, hlen, -, -⟩ := execReceiveFrame_next h
    have hstart : startReceive (n + 3) (latchLen .receiveFrame n s) = .next t := execReceiveFrame_start hidle hlen ▸ h
    exact (execReceiveFrame_start (s := withResult status rdata s) hidle hlen).trans
      (startReceive_withResult status rdata hstart hp)
  | receiveRaw n =>
    obtain ⟨hidle, hlen, -, -⟩ := execReceiveRaw_next h
    have hstart : startReceive n (latchLen .receiveRaw n s) = .next t := execReceiveRaw_start hidle hlen ▸ h
    exact (execReceiveRaw_start (s := withResult status rdata s) hidle hlen).trans
      (startReceive_withResult status rdata hstart hp)
  | prepareReceive =>
    obtain ⟨hidle, rfl⟩ := execPrepareReceive_next.mp h
    exact execPrepareReceive_next.mpr ⟨hidle, rfl⟩

/-! ## The working registers are invisible -/

/-- The state with any other working registers. -/
def withWork (w : Work) (s : State) : State := { s with work := w }

/-- The registers that a read goes on with, the operation and its length, agree, and both buffers are in canonical form. -/
structure SameRead (w w' : Work) : Prop where
  op : w.op = w'.op
  len : w.len = w'.len
  left : w.rxbuf.wf = true
  right : w'.rxbuf.wf = true

/-- Two states between two steps that differ only in the working registers, and where a read is held, not in what it goes on
with. -/
structure Alike (s t : State) : Prop where
  same : SameButWork s t
  left : s.work.rxbuf.wf = true
  right : t.work.rxbuf.wf = true
  between : s.phase = .idle ∨ (s.phase = .rxRead ∧ SameRead s.work t.work)

/-- Two outcomes that stop alike, or go on to states that are alike. -/
inductive OutcomesAlike : Host.Outcome State Fault Refusal → Host.Outcome State Fault Refusal → Prop
  | next {s t : State} (h : Alike s t) : OutcomesAlike (.next s) (.next t)
  | fault (f : Fault) : OutcomesAlike (.fault f) (.fault f)
  | refused (r : Refusal) : OutcomesAlike (.refused r) (.refused r)

theorem OutcomesAlike.of_next {o o' : Host.Outcome State Fault Refusal} {s t : State} (ho : o = .next s) (ho' : o' = .next t)
    (h : Alike s t) : OutcomesAlike o o' :=
  ho ▸ ho' ▸ .next h

variable {w : Work}

/-! ### A read -/

/-- What `MemWrite` wrote reads back as written, whatever the buffer held. -/
theorem memWrite_read_congr {m m' : Memory} (h : m.wf = true) (h' : m'.wf = true) {vs : List Byte} (hb : vs.length ≤ bufferSize)
    {x : Nat} (hx : x < vs.length) : (memWrite m 0 vs).read x = (memWrite m' 0 vs).read x := by
  have hread := memWrite_read_inside h (a := 0) (by omega) hx
  have hread' := memWrite_read_inside h' (a := 0) (by omega) hx
  rw [Nat.zero_add] at hread hread'
  exact hread.trans hread'.symm

theorem memRead_memWrite_congr {m m' : Memory} (h : m.wf = true) (h' : m'.wf = true) {vs : List Byte}
    (hb : vs.length ≤ bufferSize) {i k : Nat} (hik : i + k ≤ vs.length) :
    memRead (memWrite m 0 vs) i k = memRead (memWrite m' 0 vs) i k :=
  (memRead_memWrite h hb hik).trans (memRead_memWrite h' hb hik).symm

/-- Check (b) looks at the data and the checksum byte, and at nothing else of the buffer. -/
theorem checkChecksum_alike (hw : SameRead s.work w)
    (hdata : memRead s.work.rxbuf 2 s.work.len.toNat = memRead w.rxbuf 2 s.work.len.toNat)
    (hcks : s.work.rxbuf.read (s.work.len.toNat + 2) = w.rxbuf.read (s.work.len.toNat + 2)) :
    Alike (checkChecksum s) (checkChecksum (withWork w s)) := by
  rw [checkChecksum_eq, checkChecksum_eq]
  refine ⟨?_, hw.left, hw.right, .inl rfl⟩
  simp only [SameButWork, withWork, ← hw.len, hdata, hcks]

/-- A read fills the buffer from offset 0, and the operation looks at nothing behind the bytes it read. -/
theorem completeRead_alike {k : Nat} (hk : readCount s.work = some k) (hrx : k ≤ s.rx.length) (hw : SameRead s.work w) :
    OutcomesAlike (completeRead k s) (completeRead k (withWork w s)) := by
  have htake : (s.rx.take k).length = k := List.length_take_of_le hrx
  have hb : (s.rx.take k).length ≤ bufferSize := htake.le.trans (readCount_le hk)
  have hread {x : Nat} (hx : x < k) := memWrite_read_congr hw.left hw.right hb (x := x) (by omega)
  have hslice {i n : Nat} (hin : i + n ≤ k) := memRead_memWrite_congr hw.left hw.right hb (i := i) (k := n) (by omega)
  have hfill : SameRead (fillBuffer k s).work (fillBuffer k (withWork w s)).work :=
    ⟨hw.op, hw.len, memWrite_wf hw.left (by omega), memWrite_wf hw.right (a := 0) (vs := s.rx.take k) (by omega)⟩
  cases hop : s.work.op
  case receiveRaw =>
    have hlen : s.work.len.toNat = k := by simpa [readCount, hop] using hk
    rw [completeRead_raw hop, completeRead_raw (s := withWork w s) (hw.op ▸ hop)]
    refine .next ⟨?_, hfill.left, hfill.right, .inl rfl⟩
    have hdata := hslice (i := 0) (n := s.work.len.toNat) (by omega)
    simp only [SameButWork, finish, withWork, ← hw.len, hdata]
    rfl
  case receiveFrame =>
    have hlen : s.work.len.toNat + 3 = k := by simpa [readCount, hop, Config.rxOverhead] using hk
    cases hid : s.cfg.ownId with
    | none =>
      rw [completeRead_noIdentifier hop hid, completeRead_noIdentifier (s := withWork w s) (hw.op ▸ hop) hid]
      exact .refused _
    | some own =>
      have hid1 := hread (x := 1) (by omega)
      rw [completeRead_frame hop hid, completeRead_frame (s := withWork w s) (hw.op ▸ hop) hid]
      change OutcomesAlike _ (.next (if (memWrite w.rxbuf 0 (s.rx.take k)).read 1 = own then _ else _))
      rw [← hid1]
      split_ifs
      · have hdata := hslice (i := 2) (n := s.work.len.toNat) (by omega)
        have hcks := hread (x := s.work.len.toNat + 2) (by omega)
        exact .next (checkChecksum_alike (s := enter .rxChkId (fillBuffer k s)) hfill hdata hcks)
      · exact .next ⟨rfl, hfill.left, hfill.right, .inl rfl⟩
  all_goals simp [readCount, hop] at hk

/-- A receive whose latches stand in both states polls, and reads, in both alike. -/
theorem startReceive_alike {k : Nat} (hk : readCount s.work = some k) (hw : SameRead s.work w) :
    OutcomesAlike (startReceive k s) (startReceive k (withWork w s)) := by
  cases htp : s.tp with
  | closed =>
    rw [startReceive_closed htp, startReceive_closed (s := withWork w s) htp]
    exact .refused _
  | openAt b =>
    by_cases hrx : s.rx = []
    · rw [startReceive_empty htp hrx, startReceive_empty (s := withWork w s) htp hrx]
      exact .next ⟨rfl, hw.left, hw.right, .inl rfl⟩
    · rw [startReceive_pending htp hrx, startReceive_pending (s := withWork w s) htp hrx]
      by_cases hready : k ≤ (s.draws.rxAtRead s.rx).length
      · rw [readOrHold_ready hready, readOrHold_ready hready]
        exact completeRead_alike (s := enter .rxRead (awaitRead (emitAvail (enter .rxPoll s)))) hk hready hw
      · have hshort := Nat.lt_of_not_le hready
        rw [readOrHold_short hshort, readOrHold_short hshort]
        exact .next ⟨rfl, hw.left, hw.right, .inr ⟨rfl, hw⟩⟩

/-! ### An operation -/

/-- An operation that is turned away at its entry is refused. -/
theorem exec_of_entryRefusal {i : Instr} {r : Refusal} (h : entryRefusal i.len s = some r) : exec i s = .refused r := by
  cases i <;> simp only [Instr.len] at h <;>
    simp only [exec, execSendFrame, execSendHeader, execSendResponse, execSendRaw, execReceiveFrame, execReceiveRaw,
      execPrepareReceive, h]

/-- Every operation is turned away alike, or starts in both states from the same operands. -/
theorem exec_alike (i : Instr) (hl : s.work.rxbuf.wf = true) (hr : w.rxbuf.wf = true) :
    OutcomesAlike (exec i s) (exec i (withWork w s)) := by
  cases hentry : entryRefusal i.len s with
  | some r =>
    rw [exec_of_entryRefusal hentry, exec_of_entryRefusal (s := withWork w s) hentry]
    exact .refused r
  | none =>
    obtain ⟨hp, hn⟩ := (entryRefusal_none _ _).mp hentry
    cases i with
    | sendFrame id data =>
      refine .of_next (execSendFrame_next.mpr ⟨hp, hn, rfl⟩) (execSendFrame_next.mpr ⟨hp, hn, rfl⟩) ?_
      rw [sendFrameBody_eq, sendFrameBody_eq]
      exact ⟨rfl, hl, hr, .inl rfl⟩
    | sendHeader id =>
      exact .of_next (execSendHeader_next.mpr ⟨hp, rfl⟩) (execSendHeader_next.mpr ⟨hp, rfl⟩) ⟨rfl, hl, hr, .inl rfl⟩
    | sendResponse data =>
      refine .of_next (execSendResponse_next.mpr ⟨hp, hn, rfl⟩) (execSendResponse_next.mpr ⟨hp, hn, rfl⟩) ?_
      rw [sendResponseBody_eq, sendResponseBody_eq]
      exact ⟨rfl, hl, hr, .inl rfl⟩
    | sendRaw data =>
      refine .of_next (execSendRaw_next.mpr ⟨hp, hn, rfl⟩) (execSendRaw_next.mpr ⟨hp, hn, rfl⟩) ?_
      rw [sendRawBody_eq, sendRawBody_eq]
      exact ⟨rfl, hl, hr, .inl rfl⟩
    | receiveFrame n =>
      have hn : n ≤ 255 := hn
      have hk : readCount (latchLen .receiveFrame n s).work = some (n + 3) := by
        simpa [readCount, Config.rxOverhead] using Nat.lt_succ_of_le hn
      dsimp only [exec]
      rw [execReceiveFrame_start hp hn, execReceiveFrame_start (s := withWork w s) hp hn]
      exact startReceive_alike hk (w := (latchLen .receiveFrame n (withWork w s)).work) ⟨rfl, rfl, hl, hr⟩
    | receiveRaw n =>
      have hn : n ≤ 255 := hn
      have hk : readCount (latchLen .receiveRaw n s).work = some n := by
        simpa [readCount] using Nat.lt_succ_of_le hn
      dsimp only [exec]
      rw [execReceiveRaw_start hp hn, execReceiveRaw_start (s := withWork w s) hp hn]
      exact startReceive_alike hk (w := (latchLen .receiveRaw n (withWork w s)).work) ⟨rfl, rfl, hl, hr⟩
    | prepareReceive =>
      exact .of_next (execPrepareReceive_next.mpr ⟨hp, rfl⟩) (execPrepareReceive_next.mpr ⟨hp, rfl⟩) ⟨rfl, hl, hr, .inl rfl⟩

/-! ### A step and a run

Between operations, and while a read is held, the working registers decide nothing of what is taken from outside. -/

theorem runCall_alike (c : Command) (hl : s.work.rxbuf.wf = true) (hr : w.rxbuf.wf = true) :
    OutcomesAlike (runCall c s) (runCall c (withWork w s)) := by
  unfold runCall
  cases decode c with
  | instr i => exact exec_alike i hl hr
  | rejected e => exact .refused _

theorem stepIdle_alike (hp : s.phase = .idle) (hl : s.work.rxbuf.wf = true) (hr : w.rxbuf.wf = true) :
    OutcomesAlike (stepIdle s) (stepIdle (withWork w s)) := by
  have henv (rx : List Byte) (inputs : List Input) :
      Alike { s with rx := rx, inputs := inputs } (withWork w { s with rx := rx, inputs := inputs }) := ⟨rfl, hl, hr, .inl hp⟩
  have hin : (withWork w s).inputs = s.inputs := rfl
  unfold stepIdle
  rw [hin]
  cases s.inputs with
  | nil => exact .next (henv s.rx s.inputs)
  | cons i rest =>
    cases i with
    | call c => exact runCall_alike (s := { s with inputs := rest }) c hl hr
    | arrive bytes => exact .next (henv ..)
    | rxBecomes bytes => exact .next (henv ..)
    | timeout j => exact .next (henv s.rx rest)
    | reset => exact .next ⟨rfl, rfl, rfl, .inl rfl⟩
    | destroy => exact .next (henv s.rx [])

theorem stepWaiting_alike (k : Nat) (hp : s.phase = .rxRead) (hw : SameRead s.work w) :
    OutcomesAlike (stepWaiting k s) (stepWaiting k (withWork w s)) := by
  have henv (rx : List Byte) (inputs : List Input) :
      Alike { s with rx := rx, inputs := inputs } (withWork w { s with rx := rx, inputs := inputs }) :=
    ⟨rfl, hw.left, hw.right, .inr ⟨hp, hw⟩⟩
  have hin : (withWork w s).inputs = s.inputs := rfl
  have hparams : (withWork w s).params = s.params := rfl
  unfold stepWaiting
  rw [hin]
  cases s.inputs with
  | nil => exact .next (henv s.rx s.inputs)
  | cons i rest =>
    cases i with
    | call c => exact .refused _
    | arrive bytes => exact .next (henv ..)
    | rxBecomes bytes => exact .next (henv ..)
    | timeout j =>
      dsimp only
      rw [hparams]
      split
      · exact .next ⟨rfl, hw.left, hw.right, .inl rfl⟩
      · exact .next (henv s.rx rest)
    | reset => exact .refused _
    | destroy => exact .next (henv s.rx [])

theorem stepReading_alike (hp : s.phase = .rxRead) (hw : SameRead s.work w) :
    OutcomesAlike (stepReading s) (stepReading (withWork w s)) := by
  have hcount : readCount (withWork w s).work = readCount s.work := by simp only [withWork, readCount, hw.op, hw.len]
  unfold stepReading
  rw [hcount]
  cases hk : readCount s.work with
  | none => exact .fault _
  | some k =>
    change OutcomesAlike (if k ≤ s.rx.length then _ else _) (if k ≤ s.rx.length then _ else _)
    split_ifs with hrx
    · exact completeRead_alike hk hrx hw
    · exact stepWaiting_alike k hp hw

theorem step_alike (h : Alike s t) : OutcomesAlike (step s) (step t) := by
  obtain ⟨w, rfl⟩ : ∃ w, t = withWork w s := ⟨t.work, h.same.symm⟩
  rcases h.between with hp | ⟨hp, hw⟩
  · rw [step_idle hp, step_idle (s := withWork w s) hp]
    exact stepIdle_alike hp h.left h.right
  · rw [step_reading hp, step_reading (s := withWork w s) hp]
    exact stepReading_alike hp hw

theorem run_alike (k : Nat) (h : Alike s t) : OutcomesAlike (Host.Core.run core k s) (Host.Core.run core k t) := by
  induction k generalizing s t with
  | zero => exact .next h
  | succ k ih =>
    have hstep : OutcomesAlike (core.step s) (core.step t) := step_alike h
    simp only [Host.Core.run]
    generalize core.step s = o at hstep ⊢
    generalize core.step t = o' at hstep ⊢
    cases hstep with
    | next h => exact ih h
    | fault f => exact .fault f
    | refused r => exact .refused r

theorem outcomesSameButWork_of_alike {o o' : Host.Outcome State Fault Refusal} (h : OutcomesAlike o o') :
    OutcomesSameButWork o o' := by
  cases h with
  | next h => exact h.same
  | fault => rfl
  | refused => rfl

/-- Settles O46, by induction on the number of steps: every step keeps the two states alike. -/
theorem workingStateIsInvisible : Obligations.WorkingStateIsInvisible :=
  fun _ _ k hp hsame hl hr => outcomesSameButWork_of_alike (run_alike k ⟨hsame, hl, hr, .inl hp⟩)

end Sys2Proof.Proofs.EngineState
end

section
/-! PROOFS. The family of 20_memory.md: what lifts or ends a held read (R53), the discipline of the transport (R49), the caller's
call (R50), and the environment's steps on the inbound stream (R51). -/

namespace Sys2Proof.Proofs.InboundStream

open Sys2Proof.Machine Sys2Proof.Statements Sys2Proof.Proofs.EngineState

variable {s t : State}

/-! ## A held read -/

/-- The step of a read that has its bytes completes it. -/
theorem step_ready {k : Nat} (hp : s.phase = .rxRead) (hk : readCount s.work = some k) (hrx : k ≤ s.rx.length) :
    step s = completeRead k s := by
  simp only [step_reading hp, stepReading, hk, if_pos hrx]

/-- The step of a read that is short of bytes waits for the outside world. -/
theorem step_short {k : Nat} (hp : s.phase = .rxRead) (hk : readCount s.work = some k) (hrx : s.rx.length < k) :
    step s = stepWaiting k s := by
  simp only [step_reading hp, stepReading, hk, if_neg (Nat.not_le.mpr hrx)]

/-- The statuses with which a read that returned its bytes can end (60_exceptions.md R120). -/
theorem completeRead_status {k : Nat} (h : completeRead k s = .next t) :
    t.status = .ok ∨ t.status = .identifierMismatch ∨ t.status = .checksumMismatch := by
  cases hop : s.work.op
  case receiveFrame =>
    cases hid : s.cfg.ownId with
    | none => simp [completeRead_noIdentifier hop hid] at h
    | some own =>
      rw [completeRead_frame hop hid] at h
      split at h <;> cases h
      · rw [checkChecksum_eq]
        dsimp only
        split
        · exact .inl rfl
        · exact .inr (.inr rfl)
      · exact .inr (.inl rfl)
  case receiveRaw =>
    rw [completeRead_raw hop] at h
    cases h
    exact .inl rfl
  all_goals simp [completeRead, hop] at h

/-- A finite timeout ends a waiting read (20_memory.md R53). -/
theorem stepWaiting_timeout {k j : Nat} {later : List Input} (hin : s.inputs = .timeout j :: later)
    (hto : s.params.rxTimeout ≠ none) : stepWaiting k s = .next (timeoutRead k j { s with inputs := later }) := by
  simp only [stepWaiting, hin, if_pos (Option.isSome_iff_ne_none.mpr hto)]

/-- A transport without a timeout leaves the read waiting (92_eei_decisions.md D17). -/
theorem stepWaiting_infinite {k j : Nat} {later : List Input} (hin : s.inputs = .timeout j :: later)
    (hto : s.params.rxTimeout = none) : stepWaiting k s = .next { s with inputs := later } := by
  simp [stepWaiting, hin, hto]

/-- Settles O26: a read that is short of bytes meets the timeout, and one that has them completes before any input is taken. -/
theorem timeoutOnlyWhileShortOfBytes : Obligations.TimeoutOnlyWhileShortOfBytes := by
  intro s k j later hp hk hin
  refine ⟨fun hrx _ hto => ?_, fun hrx hto => ?_, fun hrx t h => ?_⟩
  · rw [step_short hp hk hrx, stepWaiting_timeout hin hto]
    exact ⟨_, rfl, by constructor <;> rfl, List.take_append_drop j s.rx⟩
  · rw [step_short hp hk hrx, stepWaiting_infinite hin hto]
  · rw [step_ready hp hk hrx] at h
    have d := completeRead_next h
    refine ⟨?_, d.rx, d.hist⟩
    rcases completeRead_status h with hst | hst | hst <;> simp [hst]

/-! ## The transport -/

/-- The start of either receive: its operands are latched and it polls (42_decoder.md R100). -/
theorem exec_receive_start {i : Instr} (hi : IsReceive i) (hp : s.phase = .idle) (hlen : i.len ≤ 255) :
    exec i s = startReceive (bytesAsked i) (latchLen i.op i.len s) := by
  cases i with
  | receiveFrame n => exact execReceiveFrame_start hp hlen
  | receiveRaw n => exact execReceiveRaw_start hp hlen
  | sendFrame | sendHeader | sendResponse | sendRaw | prepareReceive => exact hi.elim

/-- What either receive has done, if it goes on. -/
theorem exec_receive_next {i : Instr} (hi : IsReceive i) (h : exec i s = .next t) :
    s.tp ≠ .closed ∧ ReceiveDid (bytesAsked i) (latchLen i.op i.len s) t := by
  cases i with
  | receiveFrame n =>
    obtain ⟨-, -, hdid⟩ := execReceiveFrame_next h
    exact hdid
  | receiveRaw n =>
    obtain ⟨-, -, hdid⟩ := execReceiveRaw_next h
    exact hdid
  | sendFrame | sendHeader | sendResponse | sendRaw | prepareReceive => exact hi.elim

/-- A send that goes on ends with its `Close` (41_encoder.md R90). -/
theorem exec_send_closes {i : Instr} (hi : IsSend i) (h : exec i s = .next t) : t.tp = .closed := by
  cases i with
  | sendFrame id data =>
    obtain ⟨-, -, rfl⟩ := execSendFrame_next.mp h
    rw [sendFrameBody_eq]
  | sendHeader id =>
    obtain ⟨-, rfl⟩ := execSendHeader_next.mp h
    rw [sendHeaderBody_eq]
  | sendResponse data =>
    obtain ⟨-, -, rfl⟩ := execSendResponse_next.mp h
    rw [sendResponseBody_eq]
  | sendRaw data =>
    obtain ⟨-, -, rfl⟩ := execSendRaw_next.mp h
    rw [sendRawBody_eq]
  | receiveFrame | receiveRaw | prepareReceive => exact hi.elim

/-- Polls and reads are all that a receive emits, and neither moves the transport. -/
theorem receiveDid_keeps_transport {k : Nat} (h : ReceiveDid k s t) :
    t.tp = s.tp ∧ ∃ new : List Event, t.hist = s.hist ++ new ∧ .close ∉ new ∧ ∀ b, .cfg b ∉ new := by
  cases h with
  | nothing _ ht => exact ht ▸ ⟨rfl, [.avail _], rfl, by simp, by simp⟩
  | held _ _ ht => exact ht ▸ ⟨rfl, [.avail _], rfl, by simp, by simp⟩
  | read _ _ ht =>
    have d := completeRead_next ht
    exact ⟨d.tp, [.avail _, .rd k _], by rw [d.hist]; exact List.append_assoc .., by simp, by simp⟩

/-- Settles O48, by kind of operation. -/
theorem openCloseDiscipline : Obligations.OpenCloseDiscipline := by
  refine fun i s => ⟨fun t h => ⟨fun hi => exec_send_closes hi h, ?_, fun hi => ?_⟩, fun hi hp hlen htp => ?_⟩
  · rintro rfl
    obtain ⟨-, rfl⟩ := execPrepareReceive_next.mp h
    rw [prepareReceiveBody_eq]
  · obtain ⟨hopen, hdid⟩ := exec_receive_next hi h
    obtain ⟨htp, hnew⟩ := receiveDid_keeps_transport hdid
    exact ⟨htp, htp ▸ hopen, hnew⟩
  · rw [exec_receive_start hi hp hlen]
    exact startReceive_closed htp

/-! ## The caller's call -/

theorem runCall_of_decode {c : Command} {i : Instr} (hd : decode c = .instr i) : runCall c s = exec i s := by
  simp only [runCall, hd]

theorem decode_of_decodeTableWord {nbits w : Nat} {i : Instr} (h : decodeTableWord nbits w = some i) :
    decode (Command.ofTableWord nbits w) = .instr i := by
  unfold decodeTableWord at h
  split at h
  next hd => exact hd.trans (congrArg _ (Option.some.inj h))
  next => cases h

/-- An idle engine runs the operation that its caller's command stands for. -/
theorem step_decoded_call {c : Command} {later : List Input} {i : Instr} (hp : s.phase = .idle)
    (hin : s.inputs = .call c :: later) (hd : decode c = .instr i) : step s = exec i { s with inputs := later } :=
  (step_call hp hin).trans (runCall_of_decode hd)

/-- Settles O37: a table word is one more call whose command decodes. -/
theorem stepRunsTheDecodedOperation : Obligations.StepRunsTheDecodedOperation :=
  ⟨fun _ _ _ _ hp hin hd => step_decoded_call hp hin hd,
    fun s nbits w _ h => step_decoded_call (s := s.withFetchWord nbits w) rfl rfl (decode_of_decodeTableWord h)⟩

/-! ## The environment's steps -/

/-- Settles O38: between operations and while a read is short of bytes, the environment's inputs act alike. -/
theorem environmentMovesOnlyTheStream : Obligations.EnvironmentMovesOnlyTheStream := by
  rintro s later (hp | ⟨hp, k, hk, hrx⟩)
  · rw [step_idle hp]
    refine ⟨fun bytes hin => ?_, fun bytes hin => ?_, fun hin => ?_⟩ <;> simp only [stepIdle, hin]
  · rw [step_short hp hk hrx]
    refine ⟨fun bytes hin => ?_, fun bytes hin => ?_, fun hin => ?_⟩ <;> simp only [stepWaiting, hin]

end Sys2Proof.Proofs.InboundStream
end

section
/-! PROOFS. The family of 30_encoding.md: the command word (R70, R72), the status codes (R71), and a frame sent in two
parts (R74). -/

namespace Sys2Proof.Proofs.Encoding

open Sys2Proof.Machine Sys2Proof.Statements

/-! ## What a command says of the operation it selects -/

/-- The command selects the operation of `i` and holds every operand of it; the fields and data bytes that the operation does not
use are free (30_encoding.md R70). -/
def Carries (c : Command) (i : Instr) : Prop :=
  c.opField = i.op.code ∧
  match i with
  | .sendFrame id data => c.idField = id ∧ c.lenField.toNat = data.length ∧ c.data = data
  | .sendHeader id => c.idField = id
  | .sendResponse data => c.lenField.toNat = data.length ∧ c.data = data
  | .sendRaw data => c.lenField.toNat = data.length ∧ c.data = data
  | .receiveFrame len => c.lenField.toNat = len
  | .receiveRaw len => c.lenField.toNat = len
  | .prepareReceive => True

variable {c c' : Command} {i : Instr}

theorem carries_of_decode (h : decode c = .instr i) : Carries c i := by
  unfold decode at h
  split at h
  case h_1 hop =>
    obtain ⟨hlen, rfl⟩ := withData_eq_instr.mp h
    exact ⟨(Op.code_of_ofCode hop).symm, rfl, hlen.symm, rfl⟩
  case h_3 hop | h_4 hop =>
    obtain ⟨hlen, rfl⟩ := withData_eq_instr.mp h
    exact ⟨(Op.code_of_ofCode hop).symm, hlen.symm, rfl⟩
  case h_2 hop | h_5 hop | h_6 hop =>
    cases h
    exact ⟨(Op.code_of_ofCode hop).symm, rfl⟩
  case h_7 hop =>
    cases h
    exact ⟨(Op.code_of_ofCode hop).symm, trivial⟩
  case h_8 => cases h

theorem decode_of_carries (h : Carries c i) : decode c = .instr i := by
  obtain ⟨hop, hfields⟩ := h
  have hsel : Op.ofCode c.opField = some i.op := hop ▸ Op.ofCode_code i.op
  unfold decode
  rw [hsel]
  cases i with
  | sendFrame id data =>
    obtain ⟨rfl, hlen, rfl⟩ := hfields
    exact withData_eq_instr.mpr ⟨hlen.symm, rfl⟩
  | sendHeader id => exact hfields ▸ rfl
  | sendResponse data | sendRaw data =>
    obtain ⟨hlen, rfl⟩ := hfields
    exact withData_eq_instr.mpr ⟨hlen.symm, rfl⟩
  | receiveFrame len | receiveRaw len => exact hfields ▸ rfl
  | prepareReceive => rfl

/-- A command decodes to exactly the instruction it carries. -/
theorem decode_eq_instr : decode c = .instr i ↔ Carries c i := ⟨carries_of_decode, decode_of_carries⟩

/-- The length field holds every length of the domain (60_exceptions.md R136 (e)). -/
theorem toNat_lenField_headerWord {len : Nat} (h : len ≤ 255) (op : Op) (id : Byte) (data : List Byte) :
    (Command.mk (headerWord op id len) data).lenField.toNat = len := by
  rw [lenField_headerWord, BitVec.toNat_ofNat]
  omega

theorem carries_encode (h : i.WellFormed) : Carries (encode i) i := by
  rw [Instr.wellFormed_iff] at h
  cases i with
  | sendFrame id data =>
    exact ⟨opField_headerWord .., idField_headerWord .., toNat_lenField_headerWord h .., rfl⟩
  | sendHeader id => exact ⟨opField_headerWord .., idField_headerWord ..⟩
  | sendResponse data | sendRaw data => exact ⟨opField_headerWord .., toNat_lenField_headerWord h .., rfl⟩
  | receiveFrame len | receiveRaw len => exact ⟨opField_headerWord .., toNat_lenField_headerWord h ..⟩
  | prepareReceive => exact ⟨opField_headerWord .., trivial⟩

/-- Settles O2: the encoder writes a command that carries its instruction. -/
theorem decodeOfEncodeIsTheInstruction : Obligations.DecodeOfEncodeIsTheInstruction :=
  fun _ h => decode_eq_instr.mpr (carries_encode h)

/-- A length operand that comes from the 8-bit field is in its domain. -/
theorem Carries.wellFormed (h : Carries c i) : i.WellFormed := by
  rw [Instr.wellFormed_iff]
  have hfield := c.lenField.isLt
  obtain ⟨-, h⟩ := h
  cases i with
  | sendFrame id data =>
    obtain ⟨-, hlen, -⟩ := h
    simp only [Instr.len]; omega
  | sendResponse data | sendRaw data =>
    obtain ⟨hlen, -⟩ := h
    simp only [Instr.len]; omega
  | receiveFrame len | receiveRaw len => simp only [Instr.len]; omega
  | sendHeader id | prepareReceive => exact Nat.zero_le _

/-- Two commands that carry one instruction agree in every field that its operation uses. -/
theorem Carries.agree (h : Carries c i) (h' : Carries c' i) :
    c'.opField = c.opField ∧
    (TakesId i → c'.idField = c.idField) ∧
    (TakesData i ∨ IsReceive i → c'.lenField = c.lenField) ∧
    (TakesData i → c'.data = c.data) := by
  obtain ⟨hop, h⟩ := h
  obtain ⟨hop', h'⟩ := h'
  refine ⟨hop'.trans hop.symm, ?_⟩
  cases i with
  | sendFrame id data =>
    obtain ⟨hid, hlen, hdata⟩ := h
    obtain ⟨hid', hlen', hdata'⟩ := h'
    exact ⟨fun _ => hid'.trans hid.symm, fun _ => BitVec.eq_of_toNat_eq (hlen'.trans hlen.symm),
      fun _ => hdata'.trans hdata.symm⟩
  | sendHeader id => exact ⟨fun _ => h'.trans h.symm, (·.elim False.elim False.elim), False.elim⟩
  | sendResponse data | sendRaw data =>
    obtain ⟨hlen, hdata⟩ := h
    obtain ⟨hlen', hdata'⟩ := h'
    exact ⟨False.elim, fun _ => BitVec.eq_of_toNat_eq (hlen'.trans hlen.symm), fun _ => hdata'.trans hdata.symm⟩
  | receiveFrame len | receiveRaw len =>
    exact ⟨False.elim, fun _ => BitVec.eq_of_toNat_eq (h'.trans h.symm), False.elim⟩
  | prepareReceive => exact ⟨False.elim, (·.elim False.elim False.elim), False.elim⟩

/-- Settles O3: the command that decodes and the instruction's own command carry one instruction. -/
theorem encodeOfDecodeKeepsEveryUsedField : Obligations.EncodeOfDecodeKeepsEveryUsedField := by
  intro c i hd
  have h := decode_eq_instr.mp hd
  exact ⟨h.wellFormed, h.agree (carries_encode h.wellFormed)⟩

/-! ## The fields as numbers (30_encoding.md R70) -/

theorem opField_toNat (c : Command) : c.opField.toNat = c.header.toNat / 65536 := by
  have := c.header.isLt
  simp only [Command.opField, BitVec.extractLsb'_toNat, Nat.shiftRight_eq_div_pow]
  omega

theorem idField_eq (c : Command) : c.idField = BitVec.ofNat 8 (c.header.toNat / 256 % 256) := by
  apply BitVec.eq_of_toNat_eq
  simp [Command.idField, Nat.shiftRight_eq_div_pow]

theorem lenField_toNat (c : Command) : c.lenField.toNat = c.header.toNat % 256 := by
  simp [Command.lenField]

/-- Settles O4: each code is one arm of the decoder. -/
theorem commandFieldsSelectTheOperation : Obligations.CommandFieldsSelectTheOperation := by
  intro c
  dsimp only
  rw [← opField_toNat, ← idField_eq, ← lenField_toNat]
  refine ⟨?_, ?_, ?_, ?_, ?_, ?_, ?_, ?_, c.opField.isLt⟩ <;>
    (intro h; simp only [decode, Op.ofCode, h, Command.withData])

/-- Settles O1: each word is one closed run of the decoder. -/
theorem commandWordsDecodeAsTheTableSays : Obligations.CommandWordsDecodeAsTheTableSays := by
  unfold Obligations.CommandWordsDecodeAsTheTableSays
  decide

/-! ## The status codes (30_encoding.md R71) -/

/-- Settles O7, status by status. -/
theorem statusCodesFollowTheTable : Obligations.StatusCodesFollowTheTable :=
  ⟨rfl, rfl, rfl, rfl, rfl, rfl, fun st => by cases st <;> decide⟩

/-! ## A frame sent in two parts (30_encoding.md R74) -/

/-- The writes of a frame are those of its header and then those of its response. -/
theorem frame_writes_split (id k : Byte) (data : List Byte) (d : Draws) :
    List.zipWith Event.wr ([Config.syncByte, id] ++ data ++ [k]) (d.ackList (data.length + 3)) =
      List.zipWith Event.wr [Config.syncByte, id] (d.ackList 2) ++
        List.zipWith Event.wr (data ++ [k]) ((d.popAcks 2).ackList (data.length + 1)) := by
  rw [List.append_assoc, show data.length + 3 = 2 + (data.length + 1) by omega, Draws.ackList_add,
    List.zipWith_append (by simp)]

/-- Settles O21: the response goes on with the transport's answers where the header left off. -/
theorem headerThenResponseWritesTheFrame : Obligations.HeaderThenResponseWritesTheFrame := by
  intro id data s hp hlen hw
  refine ⟨sendHeaderBody id s, sendResponseBody data (sendHeaderBody id s), sendFrameBody id data s,
    execSendHeader_next.mpr ⟨hp, rfl⟩, execSendResponse_next.mpr ⟨by rw [sendHeaderBody_eq], hlen, rfl⟩,
    execSendFrame_next.mpr ⟨hp, hlen, rfl⟩, ?_⟩
  rw [sendResponseBody_eq, sendHeaderBody_eq, sendFrameBody_eq]
  refine ⟨by simp, rfl, rfl,
    s.hist ++ (breakLog s ++ [.cfg s.cfg.baud] ++ List.zipWith Event.wr [Config.syncByte, id] (s.draws.ackList 2)),
    List.zipWith Event.wr (data ++ [cks data]) ((s.draws.popAcks 2).ackList (data.length + 1)) ++ [.close], ?_, ?_⟩
  · simp
  · rw [frame_writes_split]
    simp [wakeLog, sleepLog, hw]

end Sys2Proof.Proofs.Encoding
end

section
/-! PROOFS. The family of 40_checksum.md: the function (R80), the accumulator's steps (R81 to R84), and what the checksum
detects (R85, R88). -/

namespace Sys2Proof.Proofs.Checksum

open Sys2Proof.Machine Sys2Proof.Statements

/-! ## `FIN` and `VERIFY` (40_checksum.md R83, R84) -/

theorem accFin_toNat (acc : Byte) : (accFin acc).toNat = 255 - (acc.toNat + 1) % 256 := by
  have hinc : (acc.toNat + 1) % 256 < 256 := Nat.mod_lt _ (by decide)
  simp only [accFin, BitVec.toNat_sub, BitVec.toNat_add, BitVec.toNat_ofNat]
  omega

/-- `FIN` is a subtraction from a constant, so it loses nothing of the accumulator. -/
theorem accFin_eq_sub (acc : Byte) : accFin acc = 254#8 - acc := by
  unfold accFin
  bv_omega

theorem accFin_inj {acc acc' : Byte} : accFin acc = accFin acc' ↔ acc = acc' := by
  rw [accFin_eq_sub, accFin_eq_sub, sub_right_inj]

theorem accVerify_iff (acc r : Byte) : accVerify acc r = true ↔ r = accFin acc := beq_iff_eq

/-- The test that needs no inversion (40_checksum.md R84). -/
theorem accVerify_iff_add (acc r : Byte) : accVerify acc r = true ↔ acc + r = 254#8 := by
  rw [accVerify_iff, accFin_eq_sub, eq_sub_iff_add_eq']

/-- Settles O11: the subtraction from 255 never borrows, so it inverts every bit. -/
theorem finInvertsTheIncrement : Obligations.FinInvertsTheIncrement := by
  intro acc
  refine ⟨accFin_toNat acc, ?_, ?_⟩
  · exact BitVec.eq_of_toNat_eq ((accFin_toNat acc).trans (by simp))
  · have hacc := acc.isLt
    rw [accFin_toNat]
    omega

/-- Settles O12: the byte accepted is `FIN` itself. -/
theorem verifyAcceptsExactlyOneByte : Obligations.VerifyAcceptsExactlyOneByte := by
  intro acc
  refine ⟨fun r => ?_, accFin acc, (accVerify_iff acc _).mpr rfl, fun r => (accVerify_iff acc r).mp⟩
  rw [accVerify_iff, ← accFin_toNat, BitVec.toNat_inj]

/-! ## The function `cks` (40_checksum.md R80, R85) -/

/-- Reducing modulo 256 after every addition is reducing the natural sum once (40_checksum.md R85). -/
theorem cks_toNat (data : List Byte) : (cks data).toNat = 255 - (natSum data + 1) % 256 := by
  rw [cks, accFin_toNat, byteSum_toNat, Nat.mod_add_mod]
  rfl

theorem cks_eq_checksumByte (data : List Byte) : cks data = checksumByte data := by
  apply BitVec.eq_of_toNat_eq
  rw [cks_toNat, checksumByte, BitVec.toNat_ofNat]
  omega

/-- `CLR` and the `ADD`s leave the sum of the data alone, whatever `acc` held before. -/
theorem accAddAll_accClr_acc (data : List Byte) (s : State) : (accAddAll data (accClr s)).work.acc = byteSum data := by
  simp [accAddAll_eq, accClr]

/-- Settles O10: `FIN` reads the sum of the data, and `cks` is its `FIN`. -/
theorem checksumIsTheInvertedSum : Obligations.ChecksumIsTheInvertedSum := by
  intro data s
  refine ⟨?_, cks_eq_checksumByte data, cks_toNat data⟩
  rw [accAddAll_accClr_acc]
  exact cks_eq_checksumByte data

/-! ## What the checksum detects (40_checksum.md R85, R88) -/

/-- The checksum depends on the data through their sum modulo 256, and tells any two such sums apart (40_checksum.md R85). -/
theorem cks_eq_cks_iff {data data' : List Byte} : cks data = cks data' ↔ byteSum data = byteSum data' := accFin_inj

theorem byteSum_eq_sum (data : List Byte) : byteSum data = data.sum := by
  induction data with
  | nil => rfl
  | cons b bs ih => rw [byteSum, ih, List.sum_cons]

/-- R88 (b): the bytes around the changed one cancel. -/
theorem cks_ne_of_changed_byte (a b : List Byte) {x y : Byte} (hxy : x ≠ y) : cks (a ++ x :: b) ≠ cks (a ++ y :: b) := by
  rw [Ne, cks_eq_cks_iff]
  simpa [byteSum_append, byteSum] using hxy

/-- R88 (a): `VERIFY` accepts no other checksum byte. -/
theorem accVerify_eq_false_of_ne_cks {data : List Byte} {r : Byte} (hr : r ≠ cks data) :
    accVerify (byteSum data) r = false :=
  Bool.eq_false_iff.mpr (mt (accVerify_byteSum data r).mp hr)

/-- R88 (c): a reordering keeps the sum. -/
theorem cks_eq_of_perm {data data' : List Byte} (h : data.Perm data') : cks data = cks data' := by
  rw [cks_eq_cks_iff, byteSum_eq_sum, byteSum_eq_sum]
  exact h.sum_eq

/-- R88 (c): what is added to one byte and taken from another cancels. -/
theorem cks_eq_of_cancelling_change (a b c : List Byte) (x y d : Byte) :
    cks (a ++ x :: b ++ y :: c) = cks (a ++ (x + d) :: b ++ (y - d) :: c) := by
  rw [cks_eq_cks_iff]
  simp only [byteSum_append, byteSum]
  ring

theorem natSum_add_cks_mod (data : List Byte) : (natSum data + (cks data).toNat) % 256 = 0xFE := by
  rw [cks_toNat]
  omega

theorem accVerify_iff_toNat_add_mod (acc r : Byte) : accVerify acc r = true ↔ (acc.toNat + r.toNat) % 256 = 0xFE := by
  rw [accVerify_iff_add, ← BitVec.toNat_inj, BitVec.toNat_add]
  rfl

/-- Settles O13, clause by clause. -/
theorem checksumDetectsOneChangedByte : Obligations.ChecksumDetectsOneChangedByte :=
  ⟨fun a b _ _ => cks_ne_of_changed_byte a b, fun _ _ => accVerify_eq_false_of_ne_cks, fun _ _ => cks_eq_of_perm,
    cks_eq_of_cancelling_change, natSum_add_cks_mod, accVerify_iff_toNat_add_mod⟩

end Sys2Proof.Proofs.Checksum
end

section
/-! PROOFS. The family of 41_encoder.md: what every send does (R91 to R94), its status (R95), the wake/sleep wrap (R96) and the
frame of the sends (R90). -/

namespace Sys2Proof.Proofs.Encoder

open Sys2Proof.Machine Sys2Proof.Safety Sys2Proof.Statements Sys2Proof.Proofs.EngineState Sys2Proof.Proofs.InboundStream
  Sys2Proof.Proofs.Checksum

variable {s t : State} {i : Instr}

/-! ## The rule's words for what the bodies do -/

theorem opposite_eq_otherLevel (l : Level) : opposite l = otherLevel l := by cases l <;> rfl

theorem sleepLog_eq_sleepEvents (s : State) : sleepLog s = sleepEvents s.params := by
  rw [sleepLog, opposite_eq_otherLevel]
  rfl

/-! ## The `Wr` events and their answers -/

theorem length_writeEvents {bytes : List Byte} {answers : List Bool} (h : bytes.length = answers.length) :
    (writeEvents bytes answers).length = bytes.length := by
  rw [writeEvents, List.length_zipWith, ← h, Nat.min_self]

theorem writeEvents_eq_map_zip (bytes : List Byte) (answers : List Bool) :
    writeEvents bytes answers = (bytes.zip answers).map (Function.uncurry Event.wr) :=
  List.map_uncurry_zip_eq_zipWith.symm

/-- The writes drive no line. -/
theorem line_notMem_writeEvents (p : Pin) (l : Level) (bytes : List Byte) (answers : List Bool) :
    Event.line p l ∉ writeEvents bytes answers := by
  simp [writeEvents_eq_map_zip]

/-- With one answer per byte, the answers of the writes are all the answers. -/
theorem writes_all_true_iff {bytes : List Byte} {answers : List Bool} (h : bytes.length = answers.length) :
    (∀ v a, Event.wr v a ∈ writeEvents bytes answers → a = true) ↔ answers.all (fun a => a) = true := by
  have hpair (a : Bool) : a ∈ answers ↔ ∃ v, (v, a) ∈ bytes.zip answers := by
    conv_lhs => rw [← List.map_snd_zip h.ge]
    simp
  rw [List.all_eq_true, writeEvents_eq_map_zip]
  simp [hpair]

/-! ## Everything a send does -/

/-- The events of a send before its `Cfg`: the wake event and the break, where the format has them. -/
def openingEvents (i : Instr) (s : State) : List Event :=
  match i with
  | .sendFrame _ _ => wakeEvents s.params ++ breakEvents s.cfg.baud
  | .sendHeader _ | .sendRaw _ => breakEvents s.cfg.baud
  | .sendResponse _ | .receiveFrame _ | .receiveRaw _ | .prepareReceive => []

/-- The `Close` of a send and, after it, the sleep event, where there is one. -/
def closingEvents (i : Instr) (s : State) : List Event :=
  match i with
  | .sendFrame _ _ => .close :: sleepEvents s.params
  | .sendHeader _ | .sendResponse _ | .sendRaw _ => [.close]
  | .receiveFrame _ | .receiveRaw _ | .prepareReceive => []

/-- The number of bytes of the wire format (30_encoding.md R61 to R64). -/
def wireCount (i : Instr) : Nat :=
  match i with
  | .sendFrame _ data => data.length + 3
  | .sendHeader _ => 2
  | .sendResponse data => data.length + 1
  | .sendRaw data => data.length
  | .receiveFrame _ | .receiveRaw _ | .prepareReceive => 0

theorem length_wireBytes (i : Instr) : (wireBytes i).length = wireCount i := by
  cases i <;> simp [wireBytes, wireCount]

/-- The transport's answers to the writes of a send that starts in `s`. -/
def answersOf (i : Instr) (s : State) : List Bool := s.draws.ackList (wireCount i)

theorem length_answersOf (i : Instr) (s : State) : (wireBytes i).length = (answersOf i s).length := by
  rw [length_wireBytes, answersOf, Draws.ackList_length]

/-- The events of a send that starts in `s`, in order. -/
def sendEvents (i : Instr) (s : State) : List Event :=
  openingEvents i s ++ [Event.cfg s.cfg.baud] ++ writeEvents (wireBytes i) (answersOf i s) ++ closingEvents i s

theorem length_sendEvents (i : Instr) (s : State) :
    (sendEvents i s).length = (openingEvents i s).length + 1 + wireCount i + (closingEvents i s).length := by
  simp only [sendEvents, List.length_append, length_writeEvents (length_answersOf i s), length_wireBytes, List.length_singleton]

/-- The events of sendFrame, written out (41_encoder.md R91). -/
theorem sendEvents_sendFrame (id : Byte) (data : List Byte) (s : State) :
    sendEvents (.sendFrame id data) s =
      wakeEvents s.params ++ breakEvents s.cfg.baud ++ [Event.cfg s.cfg.baud] ++
        writeEvents (wireBytes (.sendFrame id data)) (answersOf (.sendFrame id data) s) ++ [Event.close] ++
        sleepEvents s.params :=
  List.append_cons ..

/-- The send `i` has gone from `s` to `t`. -/
structure Sent (i : Instr) (s t : State) : Prop where
  hist : t.hist = s.hist ++ sendEvents i s
  tx : t.tx = s.tx ++ wireBytes i
  tp : t.tp = .closed
  status : t.status = sendStatus (answersOf i s)
  rdata : t.rdata = none
  phase : t.phase = .idle
  line : HasBreak i → t.line = .high
  rx : t.rx = s.draws.popPending.nextPending

theorem sendFrameBody_sent (id : Byte) (data : List Byte) (s : State) :
    Sent (.sendFrame id data) s (sendFrameBody id data s) := by
  rw [sendFrameBody_eq, cks_eq_checksumByte, sleepLog_eq_sleepEvents]
  exact ⟨by rw [sendEvents_sendFrame]; rfl, rfl, rfl, rfl, rfl, rfl, fun _ => rfl, rfl⟩

theorem sendHeaderBody_sent (id : Byte) (s : State) : Sent (.sendHeader id) s (sendHeaderBody id s) := by
  rw [sendHeaderBody_eq]
  exact ⟨rfl, rfl, rfl, rfl, rfl, rfl, fun _ => rfl, rfl⟩

theorem sendResponseBody_sent (data : List Byte) (s : State) : Sent (.sendResponse data) s (sendResponseBody data s) := by
  rw [sendResponseBody_eq, cks_eq_checksumByte]
  exact ⟨rfl, rfl, rfl, rfl, rfl, rfl, False.elim, rfl⟩

theorem sendRawBody_sent (data : List Byte) (s : State) : Sent (.sendRaw data) s (sendRawBody data s) := by
  rw [sendRawBody_eq]
  exact ⟨rfl, rfl, rfl, rfl, rfl, rfl, fun _ => rfl, rfl⟩

/-- Every send that goes on does what its rule says. -/
theorem exec_send_sent (hi : IsSend i) (h : exec i s = .next t) : Sent i s t := by
  cases i with
  | sendFrame id data =>
    obtain ⟨-, -, rfl⟩ := execSendFrame_next.mp h
    exact sendFrameBody_sent id data s
  | sendHeader id =>
    obtain ⟨-, rfl⟩ := execSendHeader_next.mp h
    exact sendHeaderBody_sent id s
  | sendResponse data =>
    obtain ⟨-, -, rfl⟩ := execSendResponse_next.mp h
    exact sendResponseBody_sent data s
  | sendRaw data =>
    obtain ⟨-, -, rfl⟩ := execSendRaw_next.mp h
    exact sendRawBody_sent data s
  | receiveFrame | receiveRaw | prepareReceive => exact hi.elim

/-! ## The status reports the writes (41_encoder.md R95) -/

theorem sendStatus_eq_ok_iff (answers : List Bool) : sendStatus answers = .ok ↔ answers.all (fun a => a) = true := by
  cases h : answers.all (fun a => a) <;> simp [sendStatus, h]

theorem sendStatus_cases (answers : List Bool) : sendStatus answers = .ok ∨ sendStatus answers = .writeFailure := by
  unfold sendStatus
  split
  · exact .inl rfl
  · exact .inr rfl

theorem close_mem_closingEvents (hi : IsSend i) : Event.close ∈ closingEvents i s := by
  cases i with
  | sendFrame => exact List.mem_cons_self
  | sendHeader | sendResponse | sendRaw => exact List.mem_singleton_self _
  | receiveFrame | receiveRaw | prepareReceive => exact hi.elim

/-- Around the bytes a send writes nothing. -/
theorem wr_mem_sendEvents {v : Byte} {a : Bool} :
    Event.wr v a ∈ sendEvents i s ↔ Event.wr v a ∈ writeEvents (wireBytes i) (answersOf i s) := by
  have hopening : Event.wr v a ∉ openingEvents i s := by
    cases i <;> simp [openingEvents, wakeEvents, breakEvents]
  have hclosing : Event.wr v a ∉ closingEvents i s := by
    cases i <;> simp [closingEvents, sleepEvents]
  simp [sendEvents, hopening, hclosing]

/-- Settles O18: the bytes that reached `tx` are those of the events, and the answers in the events decide the status. -/
theorem sendStatusReportsTheWrites : Obligations.SendStatusReportsTheWrites := by
  intro i s t hi h
  have hs := exec_send_sent hi h
  obtain ⟨new, hnew⟩ := exec_emits h
  obtain rfl : new = sendEvents i s := List.append_cancel_left (hnew.hist.symm.trans hs.hist)
  refine ⟨sendEvents i s, hs.hist, List.append_cancel_left (hnew.tx.symm.trans hs.tx),
    List.mem_append_right _ (close_mem_closingEvents hi), ?_, ?_⟩
  · simp only [hs.status, sendStatus_eq_ok_iff, wr_mem_sendEvents, writes_all_true_iff (length_answersOf i s)]
  · exact hs.status ▸ sendStatus_cases _

/-! ## The wake/sleep wrap (41_encoder.md R96) -/

theorem wakeOf_eq_none_iff {h : List Event} : wakeOf h = none ↔ ∀ l, Event.line .wake l ∉ h := by
  induction h with
  | nil => simp [wakeOf]
  | cons e es ih =>
    have hfirst : wakeOf [e] = none ↔ ∀ l, Event.line .wake l ≠ e := by
      cases e with
      | line p l => cases p <;> simp [wakeOf, wakeAfter]
      | _ => simp [wakeOf, wakeAfter]
    rw [← List.singleton_append, wakeOf_append, Option.or_eq_none_iff, ih, hfirst]
    simp [forall_and, and_comm]

theorem sendFrameBody_wake (id : Byte) (data : List Byte) (hw : s.params.wakeCtrl = true) :
    (sendFrameBody id data s).wake = otherLevel s.params.wakeActive := by
  rw [sendFrameBody_eq, ← opposite_eq_otherLevel]
  exact if_pos hw

/-- What stands in sendFrame between the start of its break and its `Close`. -/
def wrappedEvents (id : Byte) (data : List Byte) (s : State) : List Event :=
  [Event.delay (13 * ((4 * s.cfg.baud + 217) / 434)), Event.line .tx .high, Event.cfg s.cfg.baud] ++
    writeEvents (wireBytes (.sendFrame id data)) (answersOf (.sendFrame id data) s)

/-- With `WAKE_CTRL` the wake events stand at the two ends of sendFrame. -/
theorem sendEvents_sendFrame_of_wakeCtrl (id : Byte) (data : List Byte) (hw : s.params.wakeCtrl = true) :
    sendEvents (.sendFrame id data) s =
      [Event.line .wake s.params.wakeActive, Event.delay 20, Event.line .tx .low] ++ wrappedEvents id data s ++
        [Event.close, Event.line .wake (otherLevel s.params.wakeActive)] := by
  simp [sendEvents, wrappedEvents, openingEvents, closingEvents, wakeEvents, breakEvents, sleepEvents, hw]

/-- The other sends have no wrap. -/
theorem wakeOf_sendEvents (hi : ∀ id data, i ≠ .sendFrame id data) : wakeOf (sendEvents i s) = none := by
  rw [wakeOf_eq_none_iff]
  intro l
  cases i with
  | sendFrame id data => exact absurd rfl (hi id data)
  | _ => simp [sendEvents, openingEvents, closingEvents, breakEvents, line_notMem_writeEvents]

/-- A receive polls and reads, and drives no line. -/
theorem receiveDid_wakeOf {k : Nat} (h : ReceiveDid k s t) : ∃ new, t.hist = s.hist ++ new ∧ wakeOf new = none := by
  cases h with
  | nothing _ ht => exact ht ▸ ⟨[.avail _], rfl, rfl⟩
  | held _ _ ht => exact ht ▸ ⟨[.avail _], rfl, rfl⟩
  | read _ _ ht =>
    exact ⟨[.avail _, .rd k _], by rw [(completeRead_next ht).hist]; exact List.append_assoc .., rfl⟩

theorem exec_wakeOf (hi : ∀ id data, i ≠ .sendFrame id data) (h : exec i s = .next t) :
    ∃ new, t.hist = s.hist ++ new ∧ wakeOf new = none := by
  cases i with
  | sendFrame id data => exact absurd rfl (hi id data)
  | sendHeader | sendResponse | sendRaw => exact ⟨_, (exec_send_sent (by trivial) h).hist, wakeOf_sendEvents hi⟩
  | receiveFrame | receiveRaw => exact (receiveDid_wakeOf (exec_receive_next (by trivial) h).2 :)
  | prepareReceive =>
    obtain ⟨-, rfl⟩ := execPrepareReceive_next.mp h
    exact ⟨[.cfg _], rfl, rfl⟩

/-- Without `WAKE_CTRL`, and in every operation but sendFrame, the wake line is left alone. -/
theorem exec_leaves_wake (h : exec i s = .next t) (hi : s.params.wakeCtrl = false ∨ ∀ id data, i ≠ .sendFrame id data) :
    t.wake = s.wake ∧ ∃ new : List Event, t.hist = s.hist ++ new ∧ ∀ l, Event.line .wake l ∉ new := by
  obtain ⟨new, hnew⟩ := exec_emits h
  have hnone : wakeOf new = none := by
    rcases hi with hw | hi
    · exact hnew.untouched hw
    · obtain ⟨new', hhist, hnone⟩ := exec_wakeOf hi h
      exact List.append_cancel_left (hnew.hist.symm.trans hhist) ▸ hnone
  exact ⟨by rw [hnew.wake, hnone]; rfl, new, hnew.hist, wakeOf_eq_none_iff.mp hnone⟩

/-- Settles O19: between the two ends of sendFrame stands no event of the wake line. -/
theorem wakeWrapIsSendFramesAlone : Obligations.WakeWrapIsSendFramesAlone := by
  refine ⟨fun id data s t h hw => ?_, fun _ _ _ => exec_leaves_wake⟩
  obtain ⟨-, -, rfl⟩ := execSendFrame_next.mp h
  refine ⟨sendFrameBody_wake id data hw, wrappedEvents id data s, ?_, ?_⟩
  · rw [(sendFrameBody_sent id data s).hist, sendEvents_sendFrame_of_wakeCtrl id data hw]
  · simp [wrappedEvents, line_notMem_writeEvents]

/-! ## The frame of the sends (41_encoder.md R90) -/

/-- Settles O20, send by send: the premise of each clause fails for the format, or the body's equation shows its conclusion. -/
theorem sendsLeaveTheRestUnchanged : Obligations.SendsLeaveTheRestUnchanged := by
  intro i s t hi h
  have hs := exec_send_sent hi h
  cases i with
  | sendFrame id data =>
    obtain ⟨-, -, rfl⟩ := execSendFrame_next.mp h
    rw [sendFrameBody_eq] at hs ⊢
    exact ⟨rfl, rfl, rfl, rfl, fun _ => rfl, (absurd trivial ·), (absurd trivial ·), (absurd trivial ·), (absurd trivial ·),
      hs.tx, hs.rx, rfl⟩
  | sendHeader id =>
    obtain ⟨-, rfl⟩ := execSendHeader_next.mp h
    rw [sendHeaderBody_eq] at hs ⊢
    exact ⟨rfl, rfl, rfl, rfl, fun _ => rfl, (absurd trivial ·), fun _ => rfl, (absurd trivial ·), fun _ => ⟨rfl, rfl, rfl⟩,
      hs.tx, hs.rx, rfl⟩
  | sendResponse data =>
    obtain ⟨-, -, rfl⟩ := execSendResponse_next.mp h
    rw [sendResponseBody_eq] at hs ⊢
    exact ⟨rfl, rfl, rfl, rfl, fun _ => rfl, fun _ => ⟨rfl, rfl⟩, (absurd trivial ·), fun _ => rfl, (absurd trivial ·),
      hs.tx, hs.rx, rfl⟩
  | sendRaw data =>
    obtain ⟨-, -, rfl⟩ := execSendRaw_next.mp h
    rw [sendRawBody_eq] at hs ⊢
    exact ⟨rfl, rfl, rfl, rfl, fun _ => rfl, (absurd trivial ·), fun _ => rfl, fun _ => rfl, (absurd trivial ·),
      hs.tx, hs.rx, rfl⟩
  | receiveFrame | receiveRaw | prepareReceive => exact hi.elim

/-! ## The four results (41_encoder.md R91 to R94) -/

/-- The break is three events and the close one; the wrap adds three more. -/
theorem length_sendEvents_sendFrame (id : Byte) (data : List Byte) (s : State) :
    (sendEvents (.sendFrame id data) s).length = data.length + 8 + if s.params.wakeCtrl then 3 else 0 := by
  rw [length_sendEvents]
  cases hw : s.params.wakeCtrl <;>
    simp [openingEvents, closingEvents, wakeEvents, breakEvents, sleepEvents, wireCount, hw] <;> omega

theorem length_sendEvents_sendHeader (id : Byte) (s : State) : (sendEvents (.sendHeader id) s).length = 7 := by
  rw [length_sendEvents]
  rfl

theorem length_sendEvents_sendResponse (data : List Byte) (s : State) :
    (sendEvents (.sendResponse data) s).length = data.length + 3 := by
  rw [length_sendEvents]
  simp only [openingEvents, closingEvents, wireCount, List.length_nil, List.length_singleton]
  omega

theorem length_sendEvents_sendRaw (data : List Byte) (s : State) :
    (sendEvents (.sendRaw data) s).length = data.length + 5 := by
  rw [length_sendEvents]
  simp only [openingEvents, closingEvents, wireCount, breakEvents, List.length_cons, List.length_nil]
  omega

/-- The history grows by the events of the send. -/
theorem Sent.length_hist (h : Sent i s t) : t.hist.length = s.hist.length + (sendEvents i s).length := by
  rw [h.hist, List.length_append]

/-- Settles O14: an idle engine with data in their domain sends, and its body does what the rule says. -/
theorem sendFrameResult : Obligations.SendFrameResult := by
  intro id data s hp hlen wire answers
  have hs := sendFrameBody_sent id data s
  refine ⟨_, execSendFrame_next.mpr ⟨hp, hlen, rfl⟩, sendEvents_sendFrame id data s ▸ hs.hist, ?_, hs.tx, hs.tp, hs.line trivial,
    hs.status, hs.rdata, hs.phase⟩
  rw [hs.length_hist, length_sendEvents_sendFrame, ← Nat.add_assoc s.hist.length]

/-- Settles O15; that neither the wake line nor the accumulator is used is read off the body's equation. -/
theorem sendHeaderResult : Obligations.SendHeaderResult := by
  intro id s hp answers
  have hs := sendHeaderBody_sent id s
  refine ⟨_, execSendHeader_next.mpr ⟨hp, rfl⟩, hs.hist, ?_, hs.tx, hs.tp, hs.line trivial, ?_, ?_, hs.status, hs.rdata,
    hs.phase⟩
  · rw [hs.length_hist, length_sendEvents_sendHeader]
  all_goals rw [sendHeaderBody_eq]

/-- Settles O16; that neither line nor the break timer is used is read off the body's equation. -/
theorem sendResponseResult : Obligations.SendResponseResult := by
  intro data s hp hlen wire answers
  have hs := sendResponseBody_sent data s
  refine ⟨_, execSendResponse_next.mpr ⟨hp, hlen, rfl⟩, hs.hist, ?_, hs.tx, hs.tp, ?_, ?_, ?_, hs.status, hs.rdata, hs.phase⟩
  · rw [hs.length_hist, length_sendEvents_sendResponse]
  all_goals rw [sendResponseBody_eq]

/-- Settles O17; that neither the wake line nor the accumulator is used is read off the body's equation. -/
theorem sendRawResult : Obligations.SendRawResult := by
  intro data s hp hlen answers
  have hs := sendRawBody_sent data s
  refine ⟨_, execSendRaw_next.mpr ⟨hp, hlen, rfl⟩, hs.hist, ?_, hs.tx, hs.tp, hs.line trivial, ?_, ?_, hs.status, hs.rdata,
    hs.phase⟩
  · rw [hs.length_hist, length_sendEvents_sendRaw]
  all_goals rw [sendRawBody_eq]

end Sys2Proof.Proofs.Encoder
end

section
/-! PROOFS. The family of 42_decoder.md: every outcome of receiveFrame, receiveRaw and prepareReceive (R100 to R105, R108), what
they consume and leave alone (R100, R106), the byte at the synch position (R107), the result's data (R110) and the round trips
(R109). -/

namespace Sys2Proof.Proofs.Decoder

open Sys2Proof.Machine Sys2Proof.Statements Sys2Proof.Proofs.EngineState Sys2Proof.Proofs.InboundStream
  Sys2Proof.Proofs.Checksum Sys2Proof.Proofs.Encoder

variable {s t : State} {i : Instr}

/-! ## The kinds of operation -/

theorem not_isReceive_of_isSend (h : IsSend i) : ¬ IsReceive i := by
  cases i <;> simp_all [IsSend, IsReceive]

/-- prepareReceive is the one operation that neither sends nor takes bytes from the stream. -/
theorem eq_prepareReceive (hsend : ¬ IsSend i) (hi : ¬ IsReceive i) : i = .prepareReceive := by
  cases i <;> simp_all [IsSend, IsReceive]

theorem op_ne_receiveFrame (h : ∀ n, i ≠ .receiveFrame n) : i.op ≠ .receiveFrame := by
  cases i <;> simp_all [Instr.op]

/-! ## Up to the `Rd` of a receive -/

/-- The state in which the receive `i` that starts in `s` issues its one `Rd` (42_decoder.md R100). -/
def atRead (i : Instr) (s : State) : State := enter .rxRead (awaitRead (emitAvail (enter .rxPoll (latchLen i.op i.len s))))

@[simp] theorem atRead_rx (i : Instr) (s : State) : (atRead i s).rx = pendingAtRead s := rfl

theorem atRead_hist (i : Instr) (hrx : s.rx ≠ []) : (atRead i s).hist = s.hist ++ [.avail true] := by
  simp [atRead, hrx]

theorem readCount_atRead (hi : IsReceive i) (hlen : i.len ≤ 255) : readCount (atRead i s).work = some (bytesAsked i) := by
  have hmod : (BitVec.ofNat 8 i.len).toNat = i.len := Nat.mod_eq_of_lt (Nat.lt_succ_of_le hlen)
  cases i with
  | receiveFrame n => exact congrArg (fun len => some (len + 3)) hmod
  | receiveRaw n => exact congrArg some hmod
  | sendFrame | sendHeader | sendResponse | sendRaw | prepareReceive => exact hi.elim

/-- Only an idle engine with the operand in its domain goes on. -/
theorem exec_next_entry (h : exec i s = .next t) : s.phase = .idle ∧ i.len ≤ 255 := by
  cases hentry : entryRefusal i.len s with
  | none => exact (entryRefusal_none _ _).mp hentry
  | some r => rw [exec_of_entryRefusal hentry] at h; cases h

theorem exists_openAt_of_ne_closed (htp : s.tp ≠ .closed) : ∃ b, s.tp = .openAt b := by
  cases hs : s.tp with
  | closed => exact absurd hs htp
  | openAt b => exact ⟨b, rfl⟩

section Start

variable (hi : IsReceive i) (hp : s.phase = .idle) (hlen : i.len ≤ 255)
include hi hp hlen

/-- On a closed transport a receive is refused (60_exceptions.md R136 (a)). -/
theorem exec_receive_closed (htp : s.tp = .closed) : exec i s = .refused .transportNotListening :=
  (exec_receive_start hi hp hlen).trans (startReceive_closed htp)

variable (htp : s.tp ≠ .closed)
include htp

theorem exec_receive_empty (hrx : s.rx = []) : ∃ t, exec i s = .next t ∧ ReceiveFoundNothing s t := by
  obtain ⟨b, hopen⟩ := exists_openAt_of_ne_closed htp
  refine ⟨_, (exec_receive_start hi hp hlen).trans (startReceive_empty hopen hrx), ?_⟩
  constructor <;> simp [hrx]

theorem exec_receive_pending (hrx : s.rx ≠ []) :
    exec i s = readOrHold (bytesAsked i) (awaitRead (emitAvail (enter .rxPoll (latchLen i.op i.len s)))) := by
  obtain ⟨b, hopen⟩ := exists_openAt_of_ne_closed htp
  exact (exec_receive_start hi hp hlen).trans (startReceive_pending hopen hrx)

theorem exec_receive_short (hrx : s.rx ≠ []) (hk : (pendingAtRead s).length < bytesAsked i) :
    exec i s = .next (atRead i s) :=
  (exec_receive_pending hi hp hlen htp hrx).trans (readOrHold_short hk)

theorem exec_receive_ready (hrx : s.rx ≠ []) (hk : bytesAsked i ≤ (pendingAtRead s).length) :
    exec i s = completeRead (bytesAsked i) (atRead i s) :=
  (exec_receive_pending hi hp hlen htp hrx).trans (readOrHold_ready hk)

/-- A receive that is short of bytes is held, and a finite timeout may end it (42_decoder.md R105, 60_exceptions.md R124). -/
theorem exec_receive_held (hrx : s.rx ≠ []) (hk : (pendingAtRead s).length < bytesAsked i) :
    ∃ t, exec i s = .next t ∧ ReceiveHeld s t ∧
      (s.params.rxTimeout ≠ none → ∀ (j : Nat) (later : List Input), j ≤ (pendingAtRead s).length →
        ∃ u, step { t with inputs := .timeout j :: later } = .next u ∧ ReadTimedOut (bytesAsked i) j t u) := by
  refine ⟨_, exec_receive_short hi hp hlen htp hrx hk, ?_, fun hto j later hj => ?_⟩
  · exact ⟨rfl, rfl, atRead_hist i hrx, rfl, rfl, rfl, rfl, rfl, rfl⟩
  · have hwait : step { atRead i s with inputs := .timeout j :: later } = _ :=
      step_short (k := bytesAsked i) rfl (readCount_atRead hi hlen) hk
    exact ⟨_, hwait.trans (stepWaiting_timeout rfl hto), by constructor <;> rfl⟩

end Start

/-- A receive whose read completed has ended with what the read returned. -/
theorem receiveEnded_of_completeRead {k : Nat} (hrx : s.rx ≠ []) (h : completeRead k (atRead i s) = .next t) :
    ReceiveEnded k t.status t.rdata s t := by
  have d := completeRead_next h
  refine ⟨d.phase, rfl, rfl, d.rx, ?_, d.tp, d.tx, d.line, d.wake⟩
  rw [d.hist, atRead_hist i hrx, List.append_assoc]
  rfl

/-! ## What a completed read finds -/

/-- The buffer holds, behind the byte at the synch position, a frame with this identifier, these data and this checksum byte. -/
structure HoldsFrame (m : Memory) (id : Byte) (data : List Byte) (c : Byte) : Prop where
  read_id : m.read 1 = id
  read_data : memRead m 2 data.length = data
  read_cks : m.read (data.length + 2) = c

theorem holdsFrame_memWrite {m : Memory} (hwf : m.wf = true) (sync id c : Byte) {data : List Byte} (hlen : data.length ≤ 255) :
    HoldsFrame (memWrite m 0 (sync :: id :: data ++ [c])) id data c := by
  have hb : (sync :: id :: data ++ [c]).length ≤ bufferSize := by simp [bufferSize]; omega
  have hread {x : Nat} (hx : x < (sync :: id :: data ++ [c]).length) := memWrite_read_inside hwf (a := 0) (by omega) hx
  simp only [Nat.zero_add] at hread
  refine ⟨hread (x := 1) (by simp), ?_, ?_⟩
  · rw [memRead_memWrite hwf hb (by simp; omega)]
    simp
  · rw [hread (by simp)]
    simp

theorem take_frame (sync id c : Byte) (data rest : List Byte) :
    (sync :: id :: data ++ c :: rest).take (data.length + 3) = sync :: id :: data ++ [c] := by
  simp [List.take_append]

theorem drop_frame (sync id c : Byte) (data rest : List Byte) :
    (sync :: id :: data ++ c :: rest).drop (data.length + 3) = rest := by
  simp [List.drop_append]

/-- Enough pending bytes are a frame of that length, whatever is in it, and what follows. -/
theorem exists_frame {n : Nat} {sync : Byte} {tail : List Byte} (h : n + 3 ≤ (sync :: tail).length) :
    ∃ (id : Byte) (data : List Byte) (c : Byte) (rest : List Byte), data.length = n ∧ tail = id :: data ++ c :: rest := by
  match tail, h with
  | id :: tail, h =>
    have hn : n < tail.length := by simp only [List.length_cons] at h; omega
    exact ⟨id, tail.take n, tail[n], tail.drop (n + 1), List.length_take_of_le hn.le, by simp⟩

/-- The status of receiveFrame for a frame it has read (42_decoder.md R101, R102). -/
def frameStatus (own id : Byte) (data : List Byte) (c : Byte) : Status :=
  if id = own then (if c = checksumByte data then .ok else .checksumMismatch) else .identifierMismatch

/-- The data that receiveFrame returns for a frame it has read (42_decoder.md R110). -/
def frameResult (own id : Byte) (data : List Byte) (c : Byte) : Option (List Byte) :=
  if frameStatus own id data c = .ok then some data else none

/-- What check (a) and check (b) make of a frame in the buffer. -/
theorem completeRead_of_frame {own sync id c : Byte} {data rest : List Byte} (hop : s.work.op = .receiveFrame)
    (hown : s.cfg.ownId = some own) (hwf : s.work.rxbuf.wf = true) (hn : s.work.len.toNat = data.length)
    (hrx : s.rx = sync :: id :: data ++ c :: rest) :
    ∃ t, completeRead (data.length + 3) s = .next t ∧ t.status = frameStatus own id data c ∧
      t.rdata = frameResult own id data c := by
  have hlen : data.length ≤ 255 := by have := s.work.len.isLt; omega
  have hbuf := holdsFrame_memWrite hwf sync id c hlen
  rw [← take_frame sync id c data rest, ← hrx] at hbuf
  rw [completeRead_frame hop hown, hbuf.read_id]
  refine ⟨_, rfl, ?_⟩
  unfold frameResult frameStatus
  split
  · rw [checkChecksum_eq]
    simp only [enter_work, fillBuffer_work, hn, hbuf.read_data, hbuf.read_cks, cks_eq_checksumByte]
    by_cases hc : c = checksumByte data <;> simp [hc]
  · simp

/-! ## The outcomes of the three operations (42_decoder.md R101 to R104) -/

/-- receiveFrame that has read its bytes on an engine without an identifier (42_decoder.md R108). -/
theorem exec_receiveFrame_noIdentifier {n : Nat} (hp : s.phase = .idle) (hn : n ≤ 255) (htp : s.tp ≠ .closed)
    (hrx : s.rx ≠ []) (hk : n + 3 ≤ (pendingAtRead s).length) (hown : s.cfg.ownId = none) :
    exec (.receiveFrame n) s = .refused .noIdentifierConfigured :=
  (exec_receive_ready (i := .receiveFrame n) trivial hp hn htp hrx hk).trans (completeRead_noIdentifier rfl hown)

/-- receiveFrame with a whole frame pending at its `Rd`, on an engine with an identifier. -/
theorem exec_receiveFrame_of_frame {own sync id c : Byte} {data rest : List Byte} (hp : s.phase = .idle)
    (hlen : data.length ≤ 255) (hwf : s.work.rxbuf.wf = true) (htp : s.tp ≠ .closed) (hrx : s.rx ≠ [])
    (hown : s.cfg.ownId = some own) (hpend : pendingAtRead s = sync :: id :: data ++ c :: rest) :
    ∃ t, exec (.receiveFrame data.length) s = .next t ∧
      ReceiveEnded (data.length + 3) (frameStatus own id data c) (frameResult own id data c) s t ∧ t.rx = rest := by
  have hk : data.length + 3 ≤ (pendingAtRead s).length := by rw [hpend]; simp
  have hn : (atRead (.receiveFrame data.length) s).work.len.toNat = data.length := Nat.mod_eq_of_lt (Nat.lt_succ_of_le hlen)
  obtain ⟨t, hread, hstatus, hrdata⟩ :=
    completeRead_of_frame (s := atRead (.receiveFrame data.length) s) rfl hown hwf hn hpend
  have hend := receiveEnded_of_completeRead hrx hread
  refine ⟨t, (exec_receive_ready (i := .receiveFrame data.length) trivial hp hlen htp hrx hk).trans hread,
    hstatus ▸ hrdata ▸ hend, ?_⟩
  rw [hend.rx, hpend, drop_frame]

/-- Settles O22, outcome by outcome; the frame that was read decides among the last three. -/
theorem receiveFrameFollowsItsRule : Obligations.ReceiveFrameFollowsItsRule := by
  intro n s hp hn hwf
  refine ⟨exec_receive_closed (i := .receiveFrame n) trivial hp hn, exec_receive_empty (i := .receiveFrame n) trivial hp hn,
    exec_receive_held (i := .receiveFrame n) trivial hp hn, exec_receiveFrame_noIdentifier hp hn, ?_⟩
  rintro sync own data c rest htp hrx hown rfl
  refine ⟨fun other hne hpend => ?_, fun hc hpend => ?_, fun hc hpend => ?_⟩
  · simpa [frameResult, frameStatus, hne] using exec_receiveFrame_of_frame hp hn hwf htp hrx hown hpend
  · simpa [frameResult, frameStatus, hc] using exec_receiveFrame_of_frame hp hn hwf htp hrx hown hpend
  · simpa [frameResult, frameStatus, hc] using exec_receiveFrame_of_frame hp hn hwf htp hrx hown hpend

/-- A read of receiveRaw returns the bytes as they are. -/
theorem completeRead_raw_bytes {k : Nat} (hop : s.work.op = .receiveRaw) (hwf : s.work.rxbuf.wf = true)
    (hn : s.work.len.toNat = k) (hk : k ≤ s.rx.length) :
    completeRead k s = .next (finish .ok (some (s.rx.take k)) (fillBuffer k s)) := by
  have htake : (s.rx.take k).length = k := List.length_take_of_le hk
  have hb : (s.rx.take k).length ≤ bufferSize := by
    have := s.work.len.isLt
    simp only [bufferSize]
    omega
  rw [completeRead_raw hop, hn, memRead_memWrite hwf hb (by omega), List.drop_zero, List.take_take, Nat.min_self]

/-- Settles O23, outcome by outcome. -/
theorem receiveRawFollowsItsRule : Obligations.ReceiveRawFollowsItsRule := by
  intro n s hp hn hwf
  refine ⟨exec_receive_closed (i := .receiveRaw n) trivial hp hn, exec_receive_empty (i := .receiveRaw n) trivial hp hn,
    exec_receive_held (i := .receiveRaw n) trivial hp hn, fun htp hrx hk => ?_⟩
  have hread := completeRead_raw_bytes (s := atRead (.receiveRaw n) s) rfl hwf (Nat.mod_eq_of_lt (Nat.lt_succ_of_le hn)) hk
  exact ⟨_, (exec_receive_ready (i := .receiveRaw n) trivial hp hn htp hrx hk).trans hread,
    receiveEnded_of_completeRead hrx hread, rfl⟩

/-- Settles O24: the one event opens the transport from either state of it. -/
theorem prepareReceiveOpensTheTransport : Obligations.PrepareReceiveOpensTheTransport :=
  fun _ hp => ⟨_, execPrepareReceive_next.mpr ⟨hp, rfl⟩, rfl, rfl, rfl, rfl, rfl⟩

/-! ## The round trips (42_decoder.md R109) -/

/-- Settles O32: the bytes that sendFrame writes are a frame whose identifier and checksum byte receiveFrame accepts. -/
theorem frameRoundTrip : Obligations.FrameRoundTrip := by
  intro id data a b rest hpa hlen hpb htp hown hwf
  obtain ⟨sent, hsent, -, -, htx, -⟩ := sendFrameResult id data a hpa hlen
  refine ⟨sent, _, hsent, htx, fun hrx hpend => ?_⟩
  have hpend : pendingAtRead b = 0x55#8 :: id :: data ++ checksumByte data :: rest := by simp [hpend]
  obtain ⟨-, -, -, -, hframe⟩ := receiveFrameFollowsItsRule data.length b hpb hlen hwf
  obtain ⟨-, -, hgood⟩ := hframe 0x55#8 id data (checksumByte data) rest htp hrx hown rfl
  obtain ⟨got, hgot, hend, hrest⟩ := hgood rfl hpend
  exact ⟨got, hgot, hend.status, hend.rdata, hrest⟩

/-- Settles O33: neither operation changes the bytes. -/
theorem rawRoundTrip : Obligations.RawRoundTrip := by
  intro data a b rest hpa _ hlen hpb htp hwf
  obtain ⟨sent, hsent, -, -, htx, -⟩ := sendRawResult data a hpa hlen
  refine ⟨sent, data, hsent, htx, fun hrx hpend => ?_⟩
  obtain ⟨-, -, -, hread⟩ := receiveRawFollowsItsRule data.length b hpb hlen hwf
  obtain ⟨got, hgot, hend, -⟩ := hread htp hrx (by simp [hpend])
  exact ⟨got, hgot, hend.status, by simp [hend.rdata, hpend], by simp [hend.rx, hpend]⟩

/-! ## A held read goes on (42_decoder.md R105) -/

/-- While it is short of bytes, a held read takes the bytes that arrive. -/
theorem step_atRead_arrive {bytes : List Byte} {later : List Input} (hi : IsReceive i) (hlen : i.len ≤ 255)
    (hk : (pendingAtRead s).length < bytesAsked i) (hin : s.inputs = .arrive bytes :: later) :
    step (atRead i s) = .next { atRead i s with rx := pendingAtRead s ++ bytes, inputs := later } := by
  have hin : (atRead i s).inputs = .arrive bytes :: later := hin
  rw [step_short (s := atRead i s) rfl (readCount_atRead hi hlen) hk]
  simp only [stepWaiting, hin, atRead_rx]

/-- Where the environment does nothing at the `Rd`, bytes that arrive before the poll are those that arrive after it. -/
theorem atRead_arrived {bytes : List Byte} {later : List Input} (hrx : s.rx ≠ []) (hreads : s.draws.reads = []) :
    atRead i { s with rx := s.rx ++ bytes, inputs := later } =
      { atRead i s with rx := pendingAtRead s ++ bytes, inputs := later } := by
  have hpoll : (s.rx ++ bytes).isEmpty = s.rx.isEmpty := by
    rw [List.isEmpty_eq_false_iff.mpr hrx, List.isEmpty_eq_false_iff.mpr (List.append_ne_nil_of_left_ne_nil hrx bytes)]
  simp [atRead, pendingAtRead, awaitRead, emitAvail, enter, latchLen, Draws.rxAtRead_nil hreads, hpoll]

/-- Settles O25: with the bytes that arrived, the held read stands where the receive would have issued its `Rd`. -/
theorem heldReceiveGoesOnWhenBytesArrive : Obligations.HeldReceiveGoesOnWhenBytesArrive := by
  intro i s h bytes later hi hexec hph hin hk
  obtain ⟨hp, hlen⟩ := exec_next_entry hexec
  obtain ⟨htp, hdid⟩ := exec_receive_next hi hexec
  have hk' : bytesAsked i ≤ (pendingAtRead s ++ bytes).length := by rwa [List.length_append]
  cases hdid with
  | nothing _ ht => rw [ht] at hph; cases hph
  | read _ _ ht => rw [(completeRead_next ht).phase] at hph; cases hph
  | held hrx hshort ht =>
    obtain rfl : h = atRead i s := ht
    have hgo : step { atRead i s with rx := pendingAtRead s ++ bytes, inputs := later } = _ :=
      step_ready (k := bytesAsked i) rfl (readCount_atRead hi hlen) hk'
    refine ⟨_, step_atRead_arrive hi hlen hshort hin, rfl, hgo.trans ?_, fun hreads => hgo.trans ?_⟩
    · exact (exec_receive_ready (s := { s with inputs := later, draws := { s.draws with
        reads := (pendingAtRead s ++ bytes) :: s.draws.reads.drop 1 } }) hi hp hlen htp hrx hk').symm
    · have harrived := atRead_arrived (i := i) (s := s) (bytes := bytes) (later := later) hrx hreads
      have hpend : pendingAtRead { s with rx := s.rx ++ bytes, inputs := later } = _ := congrArg State.rx harrived
      have hrx' : s.rx ++ bytes ≠ [] := List.append_ne_nil_of_left_ne_nil hrx bytes
      rw [exec_receive_ready (s := { s with rx := s.rx ++ bytes, inputs := later }) hi hp hlen htp hrx' (hpend ▸ hk'),
        harrived]

/-! ## What a receive consumes and leaves alone (42_decoder.md R100, R106) -/

/-- Settles O27: the one `Rd` of a receive that has ended removed the bytes that its event shows. -/
theorem receiveConsumesExactlyItsBytes : Obligations.ReceiveConsumesExactlyItsBytes := by
  intro i s t hi hexec hph
  obtain ⟨-, hdid⟩ := exec_receive_next hi hexec
  cases hdid with
  | nothing hrx ht => exact .inl (ht ▸ ⟨hrx, hrx, rfl⟩)
  | held _ _ ht => rw [ht] at hph; cases hph
  | read hrx hk ht =>
    have hend := receiveEnded_of_completeRead (i := i) (s := s) hrx ht
    refine .inr ⟨(pendingAtRead s).take (bytesAsked i), ?_, List.length_take_of_le hk, hend.hist, completeRead_status ht⟩
    rw [hend.rx, List.take_append_drop]

/-- Only receiveFrame uses the accumulator and the byte index. -/
theorem completeRead_keeps_acc {k : Nat} (hop : s.work.op ≠ .receiveFrame) (h : completeRead k s = .next t) :
    t.work.acc = s.work.acc ∧ t.work.idx = s.work.idx := by
  cases hs : s.work.op
  case receiveFrame => exact absurd hs hop
  case receiveRaw =>
    rw [completeRead_raw hs] at h
    cases h
    exact ⟨rfl, rfl⟩
  all_goals simp [completeRead, hs] at h

/-- The bytes of a completed read are stored below the offset `k`, and nowhere else. -/
theorem completeRead_stores_below {k : Nat} (hwf : s.work.rxbuf.wf = true) (hk : k ≤ bufferSize)
    (h : completeRead k s = .next t) :
    (∀ x, k ≤ x → t.work.rxbuf.read x = s.work.rxbuf.read x) ∧ t.work.rxbuf.wf = true := by
  have hlen : (s.rx.take k).length ≤ k := List.length_take_le ..
  rw [(completeRead_next h).rxbuf]
  exact ⟨fun x hx => memWrite_read_outside hwf (by omega) (by omega), memWrite_wf hwf (by omega)⟩

/-- Settles O28: a receive polls, is held or completes its read; prepareReceive reads nothing. -/
theorem receivesLeaveTheRestUnchanged : Obligations.ReceivesLeaveTheRestUnchanged := by
  intro i s t hsend hwf hexec
  by_cases hi : IsReceive i
  · have hnot {p : Prop} (h : ¬ IsReceive i) : p := absurd hi h
    obtain ⟨-, hlen⟩ := exec_next_entry hexec
    obtain ⟨-, hdid⟩ := exec_receive_next hi hexec
    cases hdid with
    | nothing hrx ht =>
      subst ht
      exact ⟨rfl, rfl, rfl, rfl, rfl, rfl, rfl, rfl, rfl, fun _ => ⟨rfl, (if_pos hrx).symm⟩, hnot, fun _ => ⟨rfl, rfl⟩,
        fun _ _ => rfl, fun _ _ => rfl, hwf⟩
    | held hrx _ ht =>
      subst ht
      exact ⟨rfl, rfl, rfl, rfl, rfl, rfl, rfl, rfl, rfl, fun _ => ⟨rfl, (if_neg hrx).symm⟩, hnot, fun _ => ⟨rfl, rfl⟩,
        fun _ _ => rfl, fun _ _ => rfl, hwf⟩
    | read hrx _ ht =>
      have ht : completeRead (bytesAsked i) (atRead i s) = .next t := ht
      have d := completeRead_next ht
      have hk : bytesAsked i ≤ bufferSize := readCount_le (readCount_atRead (s := s) hi hlen)
      have hacc (hne : ∀ n, i ≠ .receiveFrame n) : t.work.acc = s.work.acc ∧ t.work.idx = s.work.idx :=
        completeRead_keeps_acc (s := atRead i s) (op_ne_receiveFrame hne) ht
      obtain ⟨hread, hbuf⟩ := completeRead_stores_below (s := atRead i s) hwf hk ht
      refine ⟨d.cfg, d.params, d.inputs, d.tx, d.line, d.wake, d.id, d.data, d.brkCnt,
        fun _ => ⟨d.tp, d.draws.trans (if_neg hrx).symm⟩, hnot, hacc, hread, ?_, hbuf⟩
      rintro (hph | hst | h)
      · rw [d.phase] at hph; cases hph
      · rcases completeRead_status ht with h | h | h <;> rw [hst] at h <;> cases h
      · exact hnot h
  · obtain rfl := eq_prepareReceive hsend hi
    obtain ⟨-, rfl⟩ := execPrepareReceive_next.mp hexec
    exact ⟨rfl, rfl, rfl, rfl, rfl, rfl, rfl, rfl, rfl, (absurd · hi), fun _ => ⟨rfl, rfl⟩, fun _ => ⟨rfl, rfl⟩,
      fun _ _ => rfl, fun _ _ => rfl, hwf⟩

/-! ## The synch position (42_decoder.md R107) -/

/-- Two outcomes of which the caller gets the same answer, and after which, if the operation has ended, the same is pending. -/
inductive SameAnswer : Host.Outcome State Fault Refusal → Host.Outcome State Fault Refusal → Prop
  | next {t u : State} (phase : u.phase = t.phase) (status : u.status = t.status) (rdata : u.rdata = t.rdata)
      (rx : t.phase = .idle → u.rx = t.rx) : SameAnswer (.next t) (.next u)
  | refused (r : Refusal) : SameAnswer (.refused r) (.refused r)

/-- The state with any other bytes pending and any other script of the environment. -/
def withStream (rx : List Byte) (draws : Draws) (s : State) : State := { s with rx := rx, draws := draws }

/-- The first byte of what is read counts for the length of the read, and for nothing else. -/
theorem exec_receiveFrame_sameAnswer (n : Nat) {a b : Byte} {tail rx : List Byte} {draws : Draws}
    (hwf : s.work.rxbuf.wf = true) (hrx : s.rx ≠ []) (hpend : pendingAtRead s = a :: tail) (hrx' : rx ≠ [])
    (hpend' : pendingAtRead (withStream rx draws s) = b :: tail) :
    SameAnswer (exec (.receiveFrame n) s) (exec (.receiveFrame n) (withStream rx draws s)) := by
  cases hentry : entryRefusal n s with
  | some r =>
    rw [exec_of_entryRefusal (i := .receiveFrame n) hentry,
      exec_of_entryRefusal (i := .receiveFrame n) (s := withStream rx draws s) hentry]
    exact .refused r
  | none =>
    obtain ⟨hp, hn⟩ := (entryRefusal_none _ _).mp hentry
    by_cases htp : s.tp = .closed
    · rw [exec_receive_closed (i := .receiveFrame n) trivial hp hn htp,
        exec_receive_closed (i := .receiveFrame n) (s := withStream rx draws s) trivial hp hn htp]
      exact .refused _
    by_cases hk : n + 3 ≤ (a :: tail).length
    · cases hown : s.cfg.ownId with
      | none =>
        rw [exec_receiveFrame_noIdentifier hp hn htp hrx (hpend ▸ hk) hown,
          exec_receiveFrame_noIdentifier (s := withStream rx draws s) hp hn htp hrx' (hpend' ▸ hk) hown]
        exact .refused _
      | some own =>
        obtain ⟨id, data, c, rest, rfl, rfl⟩ := exists_frame hk
        obtain ⟨t, ht, hend, hrest⟩ := exec_receiveFrame_of_frame hp hn hwf htp hrx hown hpend
        obtain ⟨u, hu, hend', hrest'⟩ :=
          exec_receiveFrame_of_frame (s := withStream rx draws s) hp hn hwf htp hrx' hown hpend'
        rw [ht, hu]
        exact .next (hend'.phase.trans hend.phase.symm) (hend'.status.trans hend.status.symm)
          (hend'.rdata.trans hend.rdata.symm) fun _ => hrest'.trans hrest.symm
    · have hshort : (a :: tail).length < n + 3 := Nat.lt_of_not_le hk
      rw [exec_receive_short (i := .receiveFrame n) trivial hp hn htp hrx (hpend ▸ hshort),
        exec_receive_short (i := .receiveFrame n) (s := withStream rx draws s) trivial hp hn htp hrx' (hpend' ▸ hshort)]
      exact .next rfl rfl rfl nofun

/-- Settles O29: the two receives get the same answer. -/
theorem synchByteIsNotChecked : Obligations.SynchByteIsNotChecked := by
  intro n s a b tail rx draws hwf hrx hpend hrx' hpend'
  have hsame : SameAnswer _ (exec (.receiveFrame n) { s with rx := rx, draws := draws }) :=
    exec_receiveFrame_sameAnswer n hwf hrx hpend hrx' hpend'
  generalize exec (.receiveFrame n) { s with rx := rx, draws := draws } = o at hsame ⊢
  refine ⟨fun t ht => ?_, fun r hr => ?_⟩
  · rw [ht] at hsame
    cases hsame with
    | next phase status rdata hrest => exact ⟨_, rfl, phase, status, rdata, hrest⟩
  · rw [hr] at hsame
    cases hsame
    rfl

/-! ## The result's data (42_decoder.md R110) -/

/-- A read that returned its bytes gives data exactly with `Ok`. -/
theorem completeRead_data_iff_ok {k : Nat} (h : completeRead k s = .next t) :
    (∃ data, t.rdata = some data) ↔ t.status = .ok := by
  refine ⟨fun ⟨data, hdata⟩ => (completeRead_next h).result (by simp [hdata]), fun hok => ?_⟩
  cases hop : s.work.op
  case receiveFrame =>
    cases hid : s.cfg.ownId with
    | none => simp [completeRead_noIdentifier hop hid] at h
    | some own =>
      rw [completeRead_frame hop hid] at h
      split at h <;> cases h
      · rw [checkChecksum_eq] at hok ⊢
        dsimp only at hok ⊢
        split at hok
        next hgood => exact ⟨_, if_pos hgood⟩
        next => cases hok
      · cases hok
  case receiveRaw =>
    rw [completeRead_raw hop] at h
    cases h
    exact ⟨_, rfl⟩
  all_goals simp [completeRead, hop] at h

/-- Without data the caller gets the status alone. -/
theorem resultOf_of_not_ok (hdata : (∃ data, t.rdata = some data) → t.status = .ok) (hst : t.status ≠ .ok) :
    resultOf t = (t.status, none) :=
  congrArg (Prod.mk t.status) (Option.eq_none_iff_forall_ne_some.mpr fun data h => hst (hdata ⟨data, h⟩))

/-- A held read that ends has completed or timed out. -/
theorem step_reading_data_iff_ok (hp : s.phase = .rxRead) (h : step s = .next t) (hph : t.phase = .idle) :
    (∃ data, t.rdata = some data) ↔ t.status = .ok := by
  have hsp : s.phase ≠ .idle := by simp [hp]
  cases step_cases h with
  | completed _ _ _ _ ht => exact completeRead_data_iff_ok ht
  | timedOut _ _ _ _ _ _ _ _ ht => simp [ht, timeoutRead_eq]
  | waited _ ht => exact absurd (ht ▸ hph) hsp
  | ran _ _ _ hidle => exact absurd hidle hsp
  | arrived _ _ _ ht => exact absurd (ht ▸ hph :) hsp
  | changed _ _ _ ht => exact absurd (ht ▸ hph :) hsp
  | ignored _ _ _ ht => exact absurd (ht ▸ hph :) hsp
  | wasReset _ hidle => exact absurd hidle hsp
  | destroyed _ _ ht => exact absurd (ht ▸ hph :) hsp

/-- An operation that ends at once gives data exactly if it is a receive that ends with `Ok`. -/
theorem exec_data_iff_ok (h : exec i s = .next t) (hph : t.phase = .idle) :
    (∃ data, t.rdata = some data) ↔ t.status = .ok ∧ IsReceive i := by
  by_cases hsend : IsSend i
  · simp [(exec_send_sent hsend h).rdata, not_isReceive_of_isSend hsend]
  by_cases hi : IsReceive i
  · obtain ⟨-, hdid⟩ := exec_receive_next hi h
    cases hdid with
    | nothing _ ht => simp [ht]
    | held _ _ ht => rw [ht] at hph; cases hph
    | read _ _ ht => simpa [hi] using completeRead_data_iff_ok ht
  · obtain rfl := eq_prepareReceive hsend hi
    obtain ⟨-, rfl⟩ := execPrepareReceive_next.mp h
    simp [prepareReceiveBody_eq, hi]

/-- Settles O30: a status without data is all that the caller gets. -/
theorem resultDataOnlyWithOk : Obligations.ResultDataOnlyWithOk := by
  refine ⟨fun s t hp h hph => ?_, fun i s t h hph => ?_⟩
  · have hdata := step_reading_data_iff_ok hp h hph
    exact ⟨hdata, resultOf_of_not_ok hdata.mp⟩
  · have hdata := exec_data_iff_ok h hph
    exact ⟨hdata, resultOf_of_not_ok fun hsome => (hdata.mp hsome).1⟩

end Sys2Proof.Proofs.Decoder
end

section
/-! PROOFS. The family of 43_synch_break.md: the bit period (R114) and the break's events, hold and line (R113, R115). -/

namespace Sys2Proof.Proofs.SynchBreak

open Sys2Proof.Machine Sys2Proof.Safety Sys2Proof.Proofs.EngineState

/-! ## The bit period (43_synch_break.md R114) -/

/-- The floor gives `≤`; a tie would make the even `434 * PERIOD` equal to the odd `4 * BAUD + 217`. -/
theorem mul_period_lt (c : Cfg) : 434 * c.period < 4 * c.baud + 217 :=
  have hfloor : 434 * c.period ≤ 4 * c.baud + 217 := Nat.mul_div_le ..
  have hparity : 434 * c.period ≠ 4 * c.baud + 217 := by omega
  hfloor.lt_of_ne hparity

theorem lt_mul_period_add (c : Cfg) : 4 * c.baud < 434 * c.period + 217 := by
  have hfloor : 4 * c.baud + 217 < 434 * (c.period + 1) := Nat.lt_mul_div_succ _ (by decide)
  omega

theorem period_mono {c d : Cfg} (h : c.baud ≤ d.baud) : c.period ≤ d.period :=
  Nat.div_le_div_right (by omega)

/-- Settles O8: the floor bounds `PERIOD` on both sides, and parity rules out the tie. -/
theorem periodIsTheNearestInteger : Obligations.PeriodIsTheNearestInteger :=
  ⟨fun c => ⟨rfl, mul_period_lt c, lt_mul_period_add c⟩, fun _ _ => period_mono⟩

/-! ## The break (43_synch_break.md R113, R115) -/

/-- Driving the transmit line sets its level, whatever it was before (43_synch_break.md R117). -/
theorem lineOf_append_line (h : List Event) (l : Level) : lineOf (h ++ [.line .tx l]) = l :=
  lineOf_append h _

theorem lineOf_append_delay (h : List Event) (us : Nat) : lineOf (h ++ [.delay us]) = lineOf h :=
  lineOf_append h _

/-- Settles O9: the events and the hold are those of `synchBreak_eq`, and the level is that of the last `Line(TX, ..)`. -/
theorem breakHoldsTheLineForBitsTimesPeriod : Obligations.BreakHoldsTheLineForBitsTimesPeriod := by
  intro bits s
  rw [synchBreak_eq]
  refine ⟨rfl, rfl, rfl, lineOf_append_line .., ?held, ?released⟩
  case held =>
    rw [List.append_cons, lineOf_append_delay, lineOf_append_line]
  case released =>
    rw [List.append_cons, List.append_cons, lineOf_append_line]

end Sys2Proof.Proofs.SynchBreak
end

section
/-! PROOFS. The family of 60_exceptions.md: which statuses an operation can return (R120), what is refused (R136), the observable
outcome of a run (R138) and the one result of each operation (R129). -/

namespace Sys2Proof.Proofs.Exceptions

open Sys2Proof.Machine Sys2Proof.Safety Sys2Proof.Statements Sys2Proof.Proofs.EngineState Sys2Proof.Proofs.InboundStream
  Sys2Proof.Proofs.Encoder Sys2Proof.Proofs.Decoder

variable {s t : State} {i : Instr}

/-! ## The statuses (60_exceptions.md R120) -/

/-- Only receiveFrame validates what it read. -/
theorem completeRead_ok {k : Nat} (hop : s.work.op ≠ .receiveFrame) (h : completeRead k s = .next t) : t.status = .ok := by
  cases hs : s.work.op
  case receiveFrame => exact absurd hs hop
  case receiveRaw =>
    rw [completeRead_raw hs] at h
    cases h
    rfl
  all_goals simp [completeRead, hs] at h

/-- A read that returned its bytes ends with `Ok` or, in a receiveFrame, with a mismatch. -/
theorem completeRead_listed {k : Nat} (h : completeRead k s = .next t) :
    t.status = .ok ∨ (s.work.op = .receiveFrame ∧ (t.status = .identifierMismatch ∨ t.status = .checksumMismatch)) := by
  by_cases hop : s.work.op = .receiveFrame
  · exact (completeRead_status h).imp_right (And.intro hop)
  · exact .inl (completeRead_ok hop h)

/-- The step that ends a held read completes it or times it out. -/
theorem step_ends_read (hp : s.phase = .rxRead) (h : step s = .next t) (hph : t.phase = .idle) :
    (∃ k, completeRead k s = .next t) ∨ ∃ k j later, t = timeoutRead k j { s with inputs := later } := by
  have hne : s.phase ≠ .idle := by simp [hp]
  cases step_cases h with
  | completed k _ _ _ ht => exact .inl ⟨k, ht⟩
  | timedOut k j later _ _ _ _ _ ht => exact .inr ⟨k, j, later, ht⟩
  | waited _ ht => exact absurd (ht ▸ hph) hne
  | ran _ _ _ hidle => exact absurd hidle hne
  | arrived _ _ _ ht => exact absurd (ht ▸ hph :) hne
  | changed _ _ _ ht => exact absurd (ht ▸ hph :) hne
  | ignored _ _ _ ht => exact absurd (ht ▸ hph :) hne
  | wasReset _ hidle => exact absurd hidle hne
  | destroyed _ _ ht => exact absurd (ht ▸ hph :) hne

/-- A receive that ends at once found nothing, or its read returned its bytes. -/
theorem exec_receive_listed (hi : IsReceive i) (h : exec i s = .next t) (hph : t.phase = .idle) :
    t.status = .noData ∨ t.status = .ok ∨
      (i.op = .receiveFrame ∧ (t.status = .identifierMismatch ∨ t.status = .checksumMismatch)) := by
  obtain ⟨-, hdid⟩ := exec_receive_next hi h
  cases hdid with
  | nothing _ ht => exact .inl (ht ▸ rfl)
  | held _ _ ht => rw [ht] at hph; cases hph
  | read _ _ ht => exact .inr (completeRead_listed ht)

/-- Settles O31, by kind of operation. -/
theorem onlyListedStatusesAreReturned : Obligations.OnlyListedStatusesAreReturned := by
  refine ⟨fun s t hp h hph => ?_, fun i s t h hph => ⟨fun hi => ?_, ?_, ?_, ?_⟩⟩
  · rcases step_ends_read hp h hph with ⟨k, hread⟩ | ⟨k, j, later, rfl⟩
    · exact (completeRead_listed hread).imp_right .inr
    · exact .inr (.inl rfl)
  · exact (exec_send_sent hi h).status ▸ sendStatus_cases _
  · rintro ⟨n, rfl⟩
    rcases exec_receive_listed (i := .receiveFrame n) trivial h hph with hno | hok | ⟨-, hmismatch⟩
    · exact .inr (.inl hno)
    · exact .inl hok
    · exact .inr (.inr hmismatch)
  · rintro ⟨n, rfl⟩
    rcases exec_receive_listed (i := .receiveRaw n) trivial h hph with hno | hok | ⟨hop, -⟩
    · exact .inr hno
    · exact .inl hok
    · cases hop
  · rintro rfl
    obtain ⟨-, rfl⟩ := execPrepareReceive_next.mp h
    rw [prepareReceiveBody_eq]

/-! ## The refusals (60_exceptions.md R136) -/

/-- Once an operation that reads nothing has started, it is not refused. -/
theorem exec_answers_of_not_receive (hi : ¬ IsReceive i) (hp : s.phase = .idle) (hlen : i.len ≤ 255) : Answers (exec i s) := by
  cases i with
  | sendFrame id data => exact ⟨_, execSendFrame_next.mpr ⟨hp, hlen, rfl⟩⟩
  | sendHeader id => exact ⟨_, execSendHeader_next.mpr ⟨hp, rfl⟩⟩
  | sendResponse data => exact ⟨_, execSendResponse_next.mpr ⟨hp, hlen, rfl⟩⟩
  | sendRaw data => exact ⟨_, execSendRaw_next.mpr ⟨hp, hlen, rfl⟩⟩
  | prepareReceive => exact ⟨_, execPrepareReceive_next.mpr ⟨hp, rfl⟩⟩
  | receiveFrame | receiveRaw => exact absurd trivial hi

theorem not_refused_of_answers {o : Host.Outcome State Fault Refusal} {r : Refusal} (h : Answers o) : o ≠ .refused r := by
  obtain ⟨t, rfl⟩ := h
  nofun

/-- receiveFrame is the one receive whose latch names receiveFrame. -/
theorem exists_eq_receiveFrame (hi : IsReceive i) (hop : i.op = .receiveFrame) : ∃ n, i = .receiveFrame n := by
  cases i with
  | receiveFrame n => exact ⟨n, rfl⟩
  | receiveRaw => cases hop
  | sendFrame | sendHeader | sendResponse | sendRaw | prepareReceive => exact hi.elim

/-- A receive that listens is refused only at the identifier check, with its bytes pending at its `Rd` (42_decoder.md R108). -/
theorem exec_receive_refused {r : Refusal} (hi : IsReceive i) (hp : s.phase = .idle) (hlen : i.len ≤ 255) (htp : s.tp ≠ .closed)
    (h : exec i s = .refused r) :
    (∃ n, i = .receiveFrame n) ∧ s.rx ≠ [] ∧ bytesAsked i ≤ (pendingAtRead s).length ∧ s.cfg.ownId = none ∧
      r = .noIdentifierConfigured := by
  have hrx : s.rx ≠ [] := by
    intro hempty
    obtain ⟨t, ht, -⟩ := exec_receive_empty hi hp hlen htp hempty
    exact not_refused_of_answers ⟨t, ht⟩ h
  have hk : bytesAsked i ≤ (pendingAtRead s).length := by
    by_contra hshort
    exact not_refused_of_answers ⟨_, exec_receive_short hi hp hlen htp hrx (Nat.lt_of_not_le hshort)⟩ h
  rw [exec_receive_ready hi hp hlen htp hrx hk] at h
  obtain ⟨hr, hop, hown⟩ := completeRead_stops.2 r h
  exact ⟨exists_eq_receiveFrame hi hop, hrx, hk, hown, hr⟩

/-- A command that stands for no instruction is refused by the step that takes it. -/
theorem step_rejected_call {c : Command} {later : List Input} {e : DecodeError} (hp : s.phase = .idle)
    (hin : s.inputs = .call c :: later) (hd : decode c = .rejected e) : step s = .refused (refusalOf e) := by
  rw [step_call hp hin, runCall, hd]

theorem decode_reservedCommand {c : Command} (hop : c.opField = 0b111#3) : decode c = .rejected .reservedCommand := by
  rw [decode, (Op.ofCode_eq_none _).mpr hop]

theorem withData_of_length_ne {c : Command} (make : List Byte → Instr) (hlen : c.data.length ≠ c.lenField.toNat) :
    c.withData make = .rejected .dataLengthMismatch := if_neg hlen

/-- Each of the three sends with data counts them. -/
theorem decode_dataLengthMismatch {c : Command} (hop : c.opField = 0b000#3 ∨ c.opField = 0b010#3 ∨ c.opField = 0b011#3)
    (hlen : c.data.length ≠ c.lenField.toNat) : decode c = .rejected .dataLengthMismatch := by
  rw [decode]
  rcases hop with hop | hop | hop <;> rw [hop] <;> exact withData_of_length_ne _ hlen

/-- Settles O34: an operation is turned away at its entry, at the start of a receive or at the identifier check. -/
theorem operationsAreRefusedExactlyAsStated : Obligations.OperationsAreRefusedExactlyAsStated := by
  refine ⟨fun i s r => ⟨fun h => ?refused, ?stated⟩, exec_ne_fault, fun c s later hp hin => ⟨fun hop => ?_, fun hop hlen => ?_⟩⟩
  case refused =>
    cases hentry : entryRefusal i.len s with
    | some r' =>
      cases (exec_of_entryRefusal hentry).symm.trans h
      exact ((entryRefusal_some _ _ _).mp hentry).imp_right .inl
    | none =>
      obtain ⟨hp, hlen⟩ := (entryRefusal_none _ _).mp hentry
      have hi : IsReceive i := by
        by_contra hi
        exact not_refused_of_answers (exec_answers_of_not_receive hi hp hlen) h
      by_cases htp : s.tp = .closed
      · cases (exec_receive_closed hi hp hlen htp).symm.trans h
        exact .inr (.inr (.inl ⟨hp, hlen, hi, htp, rfl⟩))
      · obtain ⟨hframe, hrest⟩ := exec_receive_refused hi hp hlen htp h
        exact .inr (.inr (.inr ⟨hp, hlen, hframe, htp, hrest⟩))
  case stated =>
    rintro (hentry | hentry | ⟨hp, hlen, hi, htp, rfl⟩ | ⟨hp, hlen, ⟨n, rfl⟩, htp, hrx, hk, hown, rfl⟩)
    · exact exec_of_entryRefusal ((entryRefusal_some _ _ _).mpr (.inl hentry))
    · exact exec_of_entryRefusal ((entryRefusal_some _ _ _).mpr (.inr hentry))
    · exact exec_receive_closed hi hp hlen htp
    · exact exec_receiveFrame_noIdentifier hp hlen htp hrx hk hown
  · exact step_rejected_call hp hin (decode_reservedCommand hop)
  · exact step_rejected_call hp hin (decode_dataLengthMismatch hop hlen)

theorem reads_of_isReceive (hi : IsReceive i) : reads i = true := by
  cases i with
  | receiveFrame | receiveRaw => rfl
  | sendFrame | sendHeader | sendResponse | sendRaw | prepareReceive => exact hi.elim

/-- Settles O35: there is no fault, and the contract rules out each refusal. -/
theorem keptContractIsAnswered : Obligations.KeptContractIsAnswered := by
  intro i s hc
  cases h : exec i s with
  | next t => exact ⟨t, rfl⟩
  | fault f => exact absurd h (exec_ne_fault i s f)
  | refused r =>
    obtain ⟨hrefused, -⟩ := operationsAreRefusedExactlyAsStated
    rcases (hrefused i s r).mp h with ⟨hp, -⟩ | ⟨-, hlen, -⟩ | ⟨-, -, hi, htp, -⟩ | ⟨-, -, ⟨n, rfl⟩, -, -, -, hown, -⟩
    · exact absurd hc.alone hp
    · exact absurd ((Instr.wellFormed_iff i).mp hc.domain) (Nat.not_le.mpr hlen)
    · exact absurd htp (hc.listening (reads_of_isReceive hi))
    · exact absurd hown (hc.identified rfl)

/-! ## The observable outcome of a run (60_exceptions.md R138) -/

theorem run_next (k : Nat) (h : step s = .next t) : Host.Core.run core (k + 1) s = Host.Core.run core k t := by
  have h : core.step s = .next t := h
  simp only [Host.Core.run, h]

theorem run_fault (k : Nat) {f : Fault} (h : step s = .fault f) : Host.Core.run core (k + 1) s = .fault f := by
  have h : core.step s = .fault f := h
  simp only [Host.Core.run, h]

theorem run_refused (k : Nat) {r : Refusal} (h : step s = .refused r) : Host.Core.run core (k + 1) s = .refused r := by
  have h : core.step s = .refused r := h
  simp only [Host.Core.run, h]

theorem runResults_fault (k : Nat) {f : Fault} (h : step s = .fault f) : runResults (k + 1) s = none := by
  rw [runResults, h]

/-- The results are gathered along the run, to the state that the run reaches. -/
theorem run_eq_next_iff {k : Nat} : Host.Core.run core k s = .next t ↔ ∃ results, runResults k s = some (results, t) := by
  induction k generalizing s with
  | zero =>
    refine ⟨fun h => ?_, fun ⟨_, h⟩ => ?_⟩ <;> cases h
    · exact ⟨[], rfl⟩
    · rfl
  | succ k ih =>
    cases h : step s with
    | next u => simp [run_next k h, runResults_next h, ih]
    | fault f => simp [run_fault k h, runResults_fault k h]
    | refused r => simp [run_refused k h, runResults_refused h]

theorem runIsOver_iff : runIsOver s = true ↔ s.phase = .idle ∧ ∀ c, Input.call c ∉ s.inputs := by
  have hcall (i : Input) : i.isCall = false ↔ ∀ c, i ≠ .call c := by cases i <;> simp [Input.isCall]
  simp only [runIsOver, Bool.and_eq_true, decide_eq_true_eq, List.all_eq_true, Bool.not_eq_true', hcall]
  exact and_congr_right fun _ => ⟨fun h c hc => h _ hc c rfl, fun h i hi c hc => h c (hc ▸ hi)⟩

/-- An operation is in progress where a read is held or the caller's call is taken. -/
theorem operationRuns_iff : operationRuns s = true ↔ s.phase = .rxRead ∨ ∃ c later, s.inputs = .call c :: later := by
  unfold operationRuns
  cases s.inputs with
  | nil => simp
  | cons i later => cases i <;> simp [Input.isCall]

theorem endsOperation_iff :
    endsOperation s t = true ↔ t.phase = .idle ∧ (s.phase = .rxRead ∨ ∃ c later, s.inputs = .call c :: later) := by
  rw [endsOperation, Bool.and_eq_true, decide_eq_true_eq, operationRuns_iff, and_comm]

/-- What is observed of a run that has had these results and is over in `t`. -/
def observed (results : List Result) (t : State) : RunOutcome :=
  { results := results, tp := t.tp, rx := t.rx, tx := t.tx, line := t.line, wake := t.wake, hist := t.hist }

theorem runOutcome_eq_some_iff {k : Nat} {o : RunOutcome} :
    runOutcome k s = some o ↔
      ∃ results t, runResults k s = some (results, t) ∧ runIsOver t = true ∧ o = observed results t := by
  unfold runOutcome
  cases runResults k s with
  | none => simp
  | some r =>
    obtain ⟨results, t⟩ := r
    cases hover : runIsOver t <;> simp [hover, observed, eq_comm (a := o)]

/-- A run with an outcome goes on to the state that the outcome shows. -/
theorem exists_run_of_runOutcome {k : Nat} {o : RunOutcome} (h : runOutcome k s = some o) :
    ∃ results t, Host.Core.run core k s = .next t ∧ runIsOver t = true ∧ o = observed results t := by
  obtain ⟨results, t, hres, hover, ho⟩ := runOutcome_eq_some_iff.mp h
  exact ⟨results, t, run_eq_next_iff.mpr ⟨results, hres⟩, hover, ho⟩

/-- The outcome of a run is that of the run behind its first step, and in front the result of that step, if it ended an
operation. -/
theorem runOutcome_next {k : Nat} (h : step s = .next t) :
    runOutcome (k + 1) s = (runOutcome k t).map fun o =>
      { o with results := if endsOperation s t then resultOf t :: o.results else o.results } := by
  cases hres : runResults k t with
  | none => simp [runOutcome, runResults_next h, hres]
  | some r =>
    obtain ⟨results, u⟩ := r
    have hres' := (runResults_next h).trans (congrArg _ hres)
    rw [runOutcome_eq hres', runOutcome_eq hres]
    split <;> rfl

/-- Settles O51: the outcome is read off the state that the run reaches, and its results come together step by step. -/
theorem runOutcomeIsTheResultsAndTheFinalState : Obligations.RunOutcomeIsTheResultsAndTheFinalState := by
  refine ⟨fun k s o h => ?_, fun k s t hrun hp hin => ?_, fun k s r hrun => ?_, fun s o h => ?_, fun k s t o hstep h => ?_⟩
  · obtain ⟨results, t, hrun, hover, rfl⟩ := exists_run_of_runOutcome h
    obtain ⟨hp, hin⟩ := runIsOver_iff.mp hover
    exact ⟨t, hrun, hp, hin, rfl, rfl, rfl, rfl, rfl, rfl⟩
  · obtain ⟨results, hres⟩ := run_eq_next_iff.mp hrun
    exact ⟨_, runOutcome_eq_some_iff.mpr ⟨results, t, hres, runIsOver_iff.mpr ⟨hp, hin⟩, rfl⟩⟩
  · refine Option.eq_none_iff_forall_ne_some.mpr fun o h => ?_
    obtain ⟨_, t, hrun', -⟩ := exists_run_of_runOutcome h
    cases hrun.symm.trans hrun'
  · obtain ⟨_, t, hres, -, rfl⟩ := runOutcome_eq_some_iff.mp h
    cases hres
    rfl
  · refine ⟨_, (runOutcome_next hstep).trans (congrArg _ h), fun hp hruns => ?_, fun hquiet => ?_⟩
    · exact if_pos (endsOperation_iff.mpr ⟨hp, hruns⟩)
    · refine if_neg fun hends => ?_
      obtain ⟨hp, hruns⟩ := endsOperation_iff.mp hends
      rcases hquiet with hne | ⟨hread, hcall⟩
      · exact hne hp
      · rcases hruns with hread' | ⟨c, later, hin⟩
        · exact hread hread'
        · exact hcall c later hin

/-! ## One result per operation (60_exceptions.md R129) -/

/-- The calls that the caller has still to make. -/
def callsLeft (s : State) : Nat := (s.inputs.filter Input.isCall).length

/-- The results that the engine owes: one for each call to come, and one for the read that it holds. -/
def resultsOwed (s : State) : Nat := callsLeft s + if s.phase = .rxRead then 1 else 0

theorem callsLeft_call {c : Command} {later : List Input} (hin : s.inputs = .call c :: later) :
    callsLeft s = callsLeft { s with inputs := later } + 1 := by
  rw [callsLeft, hin, List.filter_cons_of_pos rfl, List.length_cons, callsLeft]

theorem callsLeft_environment {e : Input} {later : List Input} (hin : s.inputs = e :: later) (he : e.isCall = false) :
    callsLeft s = callsLeft { s with inputs := later } := by
  simp [callsLeft, hin, he]

theorem callsLeft_congr (h : t.inputs = s.inputs) : callsLeft t = callsLeft s := by rw [callsLeft, h, callsLeft]

/-- An operation takes no input, and it ends or holds its read. -/
theorem exec_sequenced (h : exec i s = .next t) : t.inputs = s.inputs ∧ (t.phase = .idle ∨ t.phase = .rxRead) := by
  by_cases hsend : IsSend i
  · obtain ⟨-, -, hin, -⟩ := sendsLeaveTheRestUnchanged i s t hsend h
    exact ⟨hin, .inl (exec_send_sent hsend h).phase⟩
  by_cases hi : IsReceive i
  · obtain ⟨-, hdid⟩ := exec_receive_next hi h
    cases hdid with
    | nothing _ ht => exact ht ▸ ⟨rfl, .inl rfl⟩
    | held _ _ ht => exact ht ▸ ⟨rfl, .inr rfl⟩
    | read _ _ ht =>
      have d := completeRead_next ht
      exact ⟨d.inputs, .inl d.phase⟩
  · obtain rfl := eq_prepareReceive hsend hi
    obtain ⟨-, rfl⟩ := execPrepareReceive_next.mp h
    exact ⟨rfl, .inl rfl⟩

/-- The results that the step from `s` to `t` returns. -/
def resultsReturned (s t : State) : Nat := if endsOperation s t then 1 else 0

/-- A step that takes no call and moves no phase returns nothing. -/
theorem resultsOwed_of_environment (hcalls : callsLeft s = callsLeft t) (hph : t.phase = s.phase)
    (hin : ∀ c later, s.inputs ≠ .call c :: later) : resultsOwed s = resultsOwed t + resultsReturned s t := by
  have hends : ¬ endsOperation s t = true := by
    rw [endsOperation_iff]
    rintro ⟨hidle, hread | ⟨c, later, hcall⟩⟩
    · rw [hph, hread] at hidle; cases hidle
    · exact hin c later hcall
  rw [resultsOwed, resultsOwed, hcalls, hph, resultsReturned, if_neg hends, Nat.add_zero]

/-- A step that ends a held read returns its result. -/
theorem resultsOwed_of_read_ended (hp : s.phase = .rxRead) (hph : t.phase = .idle) (hcalls : callsLeft s = callsLeft t) :
    resultsOwed s = resultsOwed t + resultsReturned s t := by
  have hends := endsOperation_iff.mpr ⟨hph, .inl hp⟩
  simp [resultsOwed, resultsReturned, hends, hp, hph, hcalls]

/-- A call that is taken is answered by its result at once, or by a read that is held. -/
theorem resultsOwed_of_call {c : Command} {later : List Input} (hp : s.phase = .idle) (hin : s.inputs = .call c :: later)
    (ht : exec i { s with inputs := later } = .next t) : resultsOwed s = resultsOwed t + resultsReturned s t := by
  obtain ⟨hinputs, hph⟩ := exec_sequenced ht
  have hcalls : callsLeft s = callsLeft t + 1 := by rw [callsLeft_call hin, callsLeft_congr hinputs]
  have hends : endsOperation s t = true ↔ t.phase = .idle := by simp [endsOperation_iff, hin]
  rcases hph with hph | hph <;> simp [resultsOwed, resultsReturned, hends, hp, hph, hcalls]

/-- While the process lasts, every step returns what it takes off the results owed. -/
theorem resultsOwed_step (h : step s = .next t) (hd : Input.destroy ∉ s.inputs) :
    resultsOwed s = resultsOwed t + resultsReturned s t := by
  cases step_cases h with
  | waited hin ht =>
    subst ht
    exact resultsOwed_of_environment rfl rfl (by simp [hin])
  | ran _ _ _ hp hin _ ht => exact resultsOwed_of_call hp hin ht
  | arrived _ _ hin ht | changed _ _ hin ht | ignored _ _ hin ht =>
    exact ht ▸ resultsOwed_of_environment (callsLeft_environment hin rfl) rfl (by simp [hin])
  | wasReset _ hp hin ht =>
    exact ht ▸ resultsOwed_of_environment (callsLeft_environment hin rfl) hp.symm (by simp [hin])
  | destroyed _ hin => exact absurd (hin ▸ List.mem_cons_self) hd
  | completed _ hp _ _ ht =>
    have d := completeRead_next ht
    exact resultsOwed_of_read_ended hp d.phase (callsLeft_congr d.inputs).symm
  | timedOut _ _ _ hp _ _ hin _ ht => exact ht ▸ resultsOwed_of_read_ended hp rfl (callsLeft_environment hin rfl)

/-- A step takes at most the first input, or drops them all. -/
theorem step_inputs_suffix (h : step s = .next t) : t.inputs <:+ s.inputs := by
  cases step_cases h with
  | waited _ ht => exact ht ▸ List.suffix_rfl
  | ran _ _ _ _ hin _ ht =>
    obtain ⟨hinputs, -⟩ := exec_sequenced ht
    exact hin ▸ hinputs ▸ List.suffix_cons ..
  | arrived _ _ hin ht | changed _ _ hin ht | ignored _ _ hin ht => exact ht ▸ hin ▸ List.suffix_cons ..
  | wasReset _ _ hin ht => exact ht ▸ hin ▸ List.suffix_cons ..
  | destroyed _ _ ht => exact ht ▸ List.nil_suffix
  | completed _ _ _ _ ht => exact (completeRead_next ht).inputs ▸ List.suffix_rfl
  | timedOut _ _ _ _ _ _ hin _ ht => exact ht ▸ hin ▸ List.suffix_cons ..

/-- A run that is over owes nothing. -/
theorem resultsOwed_of_over (h : runIsOver s = true) : resultsOwed s = 0 := by
  obtain ⟨hp, hin⟩ := runIsOver_iff.mp h
  have hcalls : s.inputs.filter Input.isCall = [] := by
    refine List.filter_eq_nil_iff.mpr fun e he => ?_
    cases e with
    | call c => exact absurd he (hin c)
    | arrive | rxBecomes | timeout | reset | destroy => simp [Input.isCall]
  simp [resultsOwed, callsLeft, hcalls, hp]

/-- A run with an outcome has returned all that was owed at its start. -/
theorem length_results {k : Nat} {o : RunOutcome} (hd : Input.destroy ∉ s.inputs) (h : runOutcome k s = some o) :
    o.results.length = resultsOwed s := by
  induction k generalizing s o with
  | zero =>
    obtain ⟨_, t, hres, hover, rfl⟩ := runOutcome_eq_some_iff.mp h
    cases hres
    exact (resultsOwed_of_over hover).symm
  | succ k ih =>
    cases hstep : step s with
    | next t =>
      rw [runOutcome_next hstep, Option.map_eq_some_iff] at h
      obtain ⟨o', ho', rfl⟩ := h
      have hrest := ih (fun hmem => hd ((step_inputs_suffix hstep).mem hmem)) ho'
      rw [resultsOwed_step hstep hd, ← hrest, resultsReturned]
      split <;> rfl
    | fault f => simp [runOutcome, runResults_fault k hstep] at h
    | refused r => simp [runOutcome, runResults_refused hstep] at h

/-- Settles O52, by induction on the number of steps; a step from any other phase faults, so that the premise on it is not used. -/
theorem oneResultPerOperation : Obligations.OneResultPerOperation :=
  fun _ _ _ _ hd h => length_results hd h

end Sys2Proof.Proofs.Exceptions
end

section
/-! PROOFS. The family of 70_reset_and_hazards.md: a reset between operations and during a held read (R140), the end of the
process (R141), a receive that follows a send (R143), and a call that meets a held read (R144). -/

namespace Sys2Proof.Proofs.ResetAndHazards

open Sys2Proof.Machine Sys2Proof.Safety Sys2Proof.Statements Sys2Proof.Proofs.EngineState Sys2Proof.Proofs.InboundStream
  Sys2Proof.Proofs.Encoder Sys2Proof.Proofs.Decoder Sys2Proof.Proofs.Exceptions

variable {s : State}

/-! ## A receive that follows a send -/

/-- Settles O36: the send closes the transport, and prepareReceive opens it and so restores the contract of a receive. -/
theorem receiveAfterSendNeedsPrepareReceive : Obligations.ReceiveAfterSendNeedsPrepareReceive := by
  intro i r s t hi hr hwf hown h
  have hsent := exec_send_sent hi h
  obtain ⟨u, hu, -, hopen, -, -, huidle⟩ := prepareReceiveOpensTheTransport t hsent.phase
  have hcfg : u.cfg = s.cfg := by
    obtain ⟨hkeeps, -⟩ := configurationNeverChanges
    exact (hkeeps _ _ _ hu).trans (hkeeps _ _ _ h)
  have hcontract : Contract r u :=
    { domain := hwf
      alone := huidle
      listening := fun _ => by simp [hopen]
      identified := fun _ => hcfg ▸ hown }
  exact ⟨exec_receive_closed hr hsent.phase ((Instr.wellFormed_iff r).mp hwf) hsent.tp,
    u, hu, keptContractIsAnswered r u hcontract⟩

/-! ## What a held read does not allow -/

/-- A call that meets a waiting read (70_reset_and_hazards.md R144). -/
theorem stepWaiting_call {k : Nat} {c : Command} {later : List Input} (hin : s.inputs = .call c :: later) :
    stepWaiting k s = .refused .reentrantCall := by
  simp only [stepWaiting, hin]

/-- A reset that meets a waiting read (70_reset_and_hazards.md R140). -/
theorem stepWaiting_reset {k : Nat} {later : List Input} (hin : s.inputs = .reset :: later) :
    stepWaiting k s = .refused .operationCutShort := by
  simp only [stepWaiting, hin]

/-- Settles O39: a read that is short of bytes waits, and the wait admits neither input. -/
theorem heldOperationIsNotCutShort : Obligations.HeldOperationIsNotCutShort := by
  intro s k later hp hk hrx
  rw [step_short hp hk hrx]
  exact ⟨fun _ hin => stepWaiting_call hin, stepWaiting_reset⟩

/-! ## A reset between operations -/

/-- Settles O40: the reset engine is the created one, and its closed transport refuses every receive. -/
theorem resetBetweenOperationsIsCreation : Obligations.ResetBetweenOperationsIsCreation := by
  intro s later hp hin
  refine ⟨_, step_reset hp hin, rfl, rfl, rfl, rfl, rfl, rfl, rfl, rfl, fun r hr hwf => ?_⟩
  exact exec_receive_closed hr rfl ((Instr.wellFormed_iff r).mp hwf) rfl

/-! ## The end of the process -/

/-- The end of the process takes the engine off its inputs, between operations or while a read is short of bytes. -/
theorem step_destroy {later : List Input}
    (hrest : s.phase = .idle ∨ (s.phase = .rxRead ∧ ∃ k, readCount s.work = some k ∧ s.rx.length < k))
    (hin : s.inputs = .destroy :: later) : step s = .next (destroyEngine s) := by
  rcases hrest with hp | ⟨hp, k, hk, hrx⟩
  · simp only [step_idle hp, stepIdle, hin]
  · simp only [step_short hp hk hrx, stepWaiting, hin]

/-- A run from a state that its step leaves as it is stays there. -/
theorem run_of_step_self (h : step s = .next s) (k : Nat) : Host.Core.run core k s = .next s := by
  induction k with
  | zero => rfl
  | succ k ih => rw [run_next k h, ih]

/-- Settles O50: a destroyed engine rests as it did before, with no input left to move it. -/
theorem endOfProcessEmitsNothing : Obligations.EndOfProcessEmitsNothing := by
  intro s later hrest hin
  have hwaits : step (destroyEngine s) = .next (destroyEngine s) := by
    obtain ⟨-, -, hwait⟩ := environmentMovesOnlyTheStream (destroyEngine s) later hrest
    exact hwait rfl
  exact ⟨_, step_destroy hrest hin, rfl, rfl, rfl, rfl, rfl, rfl, rfl, run_of_step_self hwaits⟩

end Sys2Proof.Proofs.ResetAndHazards
end
